-- ==== Sys2Proof/Word.lean ====
section
/-! DEFINITION. The words of WSFC: stream bytes, 32-bit register words, 64-bit lengths and positions (R6), and the
4-byte masking key (R10, R14). All are unsigned (R11). -/

namespace Sys2Proof

/-- One stream item (`P_BYTE_W`, R6). -/
abbrev Byte := BitVec 8

/-- The value of one host register (`P_REG_W`, R6). -/
abbrev Word := BitVec 32

/-- `payload_length` and the payload offset (`P_LEN_W`, R6). -/
abbrev DWord := BitVec 64

/-- A masking key `key[0..3]`; `k0` is the first of its four bytes on the wire (R10). -/
structure Key where
  k0 : Byte
  k1 : Byte
  k2 : Byte
  k3 : Byte
deriving DecidableEq, Repr, Inhabited

/-- The all-zero key, "equivalent to an identity transform" (R130). -/
def Key.zero : Key := ⟨0, 0, 0, 0⟩

end Sys2Proof
end

