-- ==== Sys2Proof/Syntax.lean ====
section
/-! DEFINITION. The instruction set in the sense of R3: one constructor per row of spec/opcode_table.json (R98). The
operands are the bits a row leaves free in its own format: the mode bits of a `CTRL` write, `B0` and `len7` of a header
word, the upper four bits of `B0`. The bits a row ignores (`CTRL` bits 31:5, R93) are no operand (log 21). -/

namespace Sys2Proof

inductive Instr where
  /-- `MASK`: a `CTRL` write with START = 1, DIR = 0 (R93, R150); operands: bits 2, 3, 4. -/
  | mask (opsel keyEn maskEn : Bool)
  /-- `UNMASK`: a `CTRL` write with START = 1, DIR = 1 (R93, R151); bits 2, 3, 4 are stored and otherwise unused. -/
  | unmask (opsel keyEn maskEn : Bool)
  /-- `ENCODE`: invoked by the sequencer in phase `ENC_HDR` (R110, R155). -/
  | encode
  /-- `DECODE`: invoked by the sequencer in phases `DEC_B0`, `DEC_B1`, `DEC_EXT`, `DEC_KEY` (R123, R157 to R161). -/
  | decode
  /-- `APPLY`: invoked by the sequencer in phase `PAYLOAD` (R140, R162). -/
  | apply
  /-- `HDR7M`: tier 7, masked (R83). -/
  | hdr7m (b0 : Byte) (len7 : BitVec 7)
  /-- `HDR7U`: tier 7, not masked (R83). -/
  | hdr7u (b0 : Byte) (len7 : BitVec 7)
  /-- `HDR16M`: tier 16, masked, `B1` = 0xFE (R84). -/
  | hdr16m (b0 : Byte)
  /-- `HDR16U`: tier 16, not masked, `B1` = 0x7E (R84). -/
  | hdr16u (b0 : Byte)
  /-- `HDR64M`: tier 64, masked, `B1` = 0xFF (R85). -/
  | hdr64m (b0 : Byte)
  /-- `HDR64U`: tier 64, not masked, `B1` = 0x7F (R85). -/
  | hdr64u (b0 : Byte)
  /-- `TEXT`: a first header byte with `B0[3:0]` = 1 (R89); operand: `B0[7:4]`, that is FIN and the reserved bits (R81). -/
  | text (hi : BitVec 4)
  /-- `BINARY`: a first header byte with `B0[3:0]` = 2 (R89); operand: `B0[7:4]`. -/
  | binary (hi : BitVec 4)
deriving DecidableEq, Repr

end Sys2Proof
end

