-- ==== Sys2Proof/WellFormed.lean ====
section
/-! DEFINITION. The one check an instruction can fail: the constraint `B1[6:0] <= 125` of the tier 7 rows (R83, R98).
Every other operand value is legal (R90, R94). -/

namespace Sys2Proof

/-- R83: the 7-bit field of a tier 7 header is at most 125. -/
def tier7Length (len7 : BitVec 7) : Bool := decide (len7.toNat ≤ 125)

/-- The well-formedness check, as a Bool. -/
def Instr.check : Instr → Bool
  | .mask _ _ _ => true
  | .unmask _ _ _ => true
  | .encode => true
  | .decode => true
  | .apply => true
  | .hdr7m _ len7 => tier7Length len7
  | .hdr7u _ len7 => tier7Length len7
  | .hdr16m _ => true
  | .hdr16u _ => true
  | .hdr64m _ => true
  | .hdr64u _ => true
  | .text _ => true
  | .binary _ => true

/-- A well-formed instruction. -/
abbrev WellFormed (i : Instr) : Prop := i.check = true

end Sys2Proof
end

