-- ==== Sys2Proof/Decode.lean ====
section
/-! DEFINITION. The three encoded formats of R98 and their decoder, total and rejecting by name; after it the encoder, the
match and mask table of spec/opcode_table.json, and the host's entry `decodeTableWord`. Which format a word has is known
from where the machine meets it: a value written to `CTRL`, the header word `B0*256 + B1`, or the byte `B0`. -/

namespace Sys2Proof

/-- The formats of R98: where a word of the table stands. -/
inductive Carrier where
  /-- the 32-bit value of a write to `CTRL` -/
  | ctrl
  /-- the 16-bit header word `B0*256 + B1` -/
  | hdr
  /-- the 8-bit first header byte -/
  | b0
  /-- an operation the sequencer invokes; it has no bit pattern of its own -/
  | internal
deriving DecidableEq, Repr

/-- Why a word is no instruction. -/
inductive Reject where
  /-- a `CTRL` write with bit 0 = 0 "is no command" (R93) -/
  | notACommand
  /-- a first byte whose opcode is neither Text nor Binary; the table has no row for it (R89, N15) -/
  | notAFrameOpcode
  /-- an internal operation has "no bit pattern" (R98) -/
  | noBitPattern
deriving DecidableEq, Repr

/-- R93: a value written to `CTRL` as a command. -/
def decodeCtrl (v : Word) : Except Reject Instr :=
  if v.getLsbD 0 then
    if v.getLsbD 1 then .ok (.unmask (v.getLsbD 2) (v.getLsbD 3) (v.getLsbD 4))
    else .ok (.mask (v.getLsbD 2) (v.getLsbD 3) (v.getLsbD 4))
  else .error .notACommand

/-- R82 to R86: the form of a header, from `B0` and `B1`; `B1` alone decides it (R86) and every value has a form (R90). -/
def decodeHdr (b0 b1 : Byte) : Instr :=
  let masked := b1.getLsbD 7
  let len7 := b1.extractLsb' 0 7
  if len7 = 126#7 then (if masked then .hdr16m b0 else .hdr16u b0)
  else if len7 = 127#7 then (if masked then .hdr64m b0 else .hdr64u b0)
  else if masked then .hdr7m b0 len7 else .hdr7u b0 len7

/-- R89: a first header byte by its low four bits. -/
def decodeB0 (b : Byte) : Except Reject Instr :=
  if b.extractLsb' 0 4 = 1#4 then .ok (.text (b.extractLsb' 4 4))
  else if b.extractLsb' 0 4 = 2#4 then .ok (.binary (b.extractLsb' 4 4))
  else .error .notAFrameOpcode

/-- The decoder: any word, at any of the carriers. A header word is the low 16 bits (`B0` in bits 15:8), a first byte the
low 8 bits. -/
def decode (c : Carrier) (w : Word) : Except Reject Instr :=
  match c with
  | .ctrl => decodeCtrl w
  | .hdr => .ok (decodeHdr (w.extractLsb' 8 8) (w.extractLsb' 0 8))
  | .b0 => decodeB0 (w.extractLsb' 0 8)
  | .internal => .error .noBitPattern

/-- A register word with the single bit `n` as given (R9). -/
def bitAt (n : Nat) (b : Bool) : Word := (BitVec.ofBool b).setWidth 32 <<< n

/-- R93: the `CTRL` value of a command; the ignored bits 31:5 are 0. -/
def ctrlValue (dir opsel keyEn maskEn : Bool) : Word :=
  bitAt 0 true ||| bitAt 1 dir ||| bitAt 2 opsel ||| bitAt 3 keyEn ||| bitAt 4 maskEn

/-- R82, R110: the byte `B1` from the mask bit and the 7-bit field, `(m << 7) | c`. -/
def byteB1 (masked : Bool) (len7 : BitVec 7) : Byte := (if masked then 0x80#8 else 0#8) ||| len7.setWidth 8

/-- R81: the byte `B0` from its upper four bits (FIN and reserved) and the opcode. -/
def byteB0 (hi opcode : BitVec 4) : Byte := (hi.setWidth 8 <<< 4) ||| opcode.setWidth 8

/-- R98: the header word `B0*256 + B1`. -/
def hdrWord (b0 b1 : Byte) : Word := (b0.setWidth 32 <<< 8) ||| b1.setWidth 32

/-- The encoder: where the word of an instruction stands and what it is; none for the internal operations (R98). -/
def encode : Instr → Option (Carrier × Word)
  | .mask opsel keyEn maskEn => some (.ctrl, ctrlValue false opsel keyEn maskEn)
  | .unmask opsel keyEn maskEn => some (.ctrl, ctrlValue true opsel keyEn maskEn)
  | .encode => none
  | .decode => none
  | .apply => none
  | .hdr7m b0 len7 => some (.hdr, hdrWord b0 (byteB1 true len7))
  | .hdr7u b0 len7 => some (.hdr, hdrWord b0 (byteB1 false len7))
  | .hdr16m b0 => some (.hdr, hdrWord b0 0xFE#8)
  | .hdr16u b0 => some (.hdr, hdrWord b0 0x7E#8)
  | .hdr64m b0 => some (.hdr, hdrWord b0 0xFF#8)
  | .hdr64u b0 => some (.hdr, hdrWord b0 0x7F#8)
  | .text hi => some (.b0, BitVec.setWidth 32 (byteB0 hi 1#4))
  | .binary hi => some (.b0, BitVec.setWidth 32 (byteB0 hi 2#4))

/-- The bits of a carrier's word that are a row's match, mask or operands; the rest is ignored (`CTRL` bits 31:5, R93) or
no part of the word (the bits above a 16-bit header word or an 8-bit first byte, R98). -/
def Carrier.significant : Carrier → Word
  | .ctrl => 0x0000001F#32
  | .hdr => 0x0000FFFF#32
  | .b0 => 0x000000FF#32
  | .internal => 0#32

/-- One row of spec/opcode_table.json: its carrier, its match and its mask. -/
structure Row where
  carrier : Carrier
  pattern : Word
  mask : Word
deriving DecidableEq, Repr

/-- The row of spec/opcode_table.json an instruction belongs to, its numbers as the table has them. -/
def Instr.row : Instr → Row
  | .mask _ _ _ => ⟨.ctrl, 0x00000001#32, 0x00000003#32⟩
  | .unmask _ _ _ => ⟨.ctrl, 0x00000003#32, 0x00000003#32⟩
  | .encode => ⟨.internal, 0#32, 0#32⟩
  | .decode => ⟨.internal, 0#32, 0#32⟩
  | .apply => ⟨.internal, 0#32, 0#32⟩
  | .hdr7m _ _ => ⟨.hdr, 0x0080#32, 0x0080#32⟩
  | .hdr7u _ _ => ⟨.hdr, 0x0000#32, 0x0080#32⟩
  | .hdr16m _ => ⟨.hdr, 0x00FE#32, 0x00FF#32⟩
  | .hdr16u _ => ⟨.hdr, 0x007E#32, 0x00FF#32⟩
  | .hdr64m _ => ⟨.hdr, 0x00FF#32, 0x00FF#32⟩
  | .hdr64u _ => ⟨.hdr, 0x007F#32, 0x00FF#32⟩
  | .text _ => ⟨.b0, 0x01#32, 0x0F#32⟩
  | .binary _ => ⟨.b0, 0x02#32, 0x0F#32⟩

/-- The carrier of a single byte that comes with no context (log 16): a byte the `B0` rows match is a first header byte; a
byte that is the low byte of a command (bit 0 set, bits 7:5 clear) is a `CTRL` value; any other is `B1` behind `B0` = 0. -/
def oneByteCarrier (w : Nat) : Carrier :=
  if w % 16 = 1 ∨ w % 16 = 2 then .b0
  else if w % 2 = 1 ∧ w < 32 then .ctrl
  else .hdr

/-- The carrier of a table word of `nbits` bits (R98: 32 bits on `CTRL`, 16 on the header word, 8 on `B0`); none for a word
without bits (log 16). -/
def carrierOf (nbits w : Nat) : Option Carrier :=
  if nbits = 0 then none
  else if nbits ≤ 8 then some (oneByteCarrier w)
  else if nbits ≤ 16 then some .hdr
  else some .ctrl

/-- What the decoder reads from a word of the table, its bits numbered as spec/opcode_table.json numbers them. -/
def decodeTableWord (nbits w : Nat) : Option Instr :=
  match carrierOf nbits w with
  | none => none
  | some c =>
    match decode c (BitVec.ofNat 32 w) with
    | .ok i => some i
    | .error _ => none

end Sys2Proof
end

