-- ==== Sys2Proof/Config.lean ====
section
/-! DEFINITION. The implementation parameters of R6. The three a step can see are gathered in `Params`, which State
carries and no step changes, so that a statement about every state is a statement about every value of them (log 3). -/

namespace Sys2Proof

/-- The parameters of the step relation (R6, R8). -/
structure Params where
  /-- `P_DEFAULT_KEY`: the "fixed constant" a missing key defaults to (D9). -/
  defaultKey : Key
  /-- `P_UNMASKED_ENCODE`: whether `MASK` can produce an unmasked frame (D13). -/
  unmaskedEncode : Bool
  /-- `P_EXPECTED_B0`: the first header bytes that raise no `MalformedOpcodeOrFlags` (D11). -/
  expectedB0 : List Byte
deriving DecidableEq, Repr

namespace Config

/-- The value of `P_DEFAULT_KEY`, which the spec leaves OPEN (D9, N5): a constant without a body, so that nothing can
be proved of its value (log 4). -/
opaque defaultKey : Key

/-- `P_DEFAULT_OPCODE`, the reset value of `CTRL.OPSEL`: Binary (D10). -/
def defaultOpsel : Bool := true

/-- The parameters of the machine as reset leaves it: the default key open, the other two as R6 gives them
(D11: log 5; D13: log 6). -/
def params : Params :=
  { defaultKey := defaultKey, unmaskedEncode := false, expectedB0 := [0x81#8, 0x82#8] }

end Config

end Sys2Proof
end

