-- ==== Sys2Proof/Machine/State.lean ====
section
/-! DEFINITION. The state of the machine: every register of 10_state.md, the two streams of R31, and, as plain data, what the
environment is about to do (the host's program and the schedule, R7, R8). Beside it the reasons a step can stop, and
the state after reset (R36). -/

namespace Sys2Proof.Machine

/-- `PHASE`, what the sequencer does next (R29). The value 7 is "never taken" and has no constructor (U14, log 13). -/
inductive Phase where
  | idle
  | encHdr
  | decB0
  | decB1
  | decExt
  | decKey
  | payload
deriving DecidableEq, Repr

/-- The stored bits of `CTRL` (R23); START is not a stored bit. -/
structure Ctrl where
  dir : Bool
  opsel : Bool
  keyEn : Bool
  maskEn : Bool
deriving DecidableEq, Repr

/-- The six stored flags of `STATUS` (R26, R30). -/
structure Flags where
  busy : Bool
  done : Bool
  eTrunc : Bool
  eEos : Bool
  dMalformed : Bool
  dUnmasked : Bool
deriving DecidableEq, Repr

/-- The header record `H_B0`, `H_B1`, `H_LEN`, `H_KEY` (R27). -/
structure Header where
  b0 : Byte
  b1 : Byte
  len : DWord
  key : Key
deriving DecidableEq, Repr

/-- One line of a host program (R96). A byte offset into the register space is a plain number (R22). -/
inductive HostLine where
  /-- `WR`: RegWrite (R180) -/
  | wr (off : Nat) (v : Word)
  /-- `RD`: RegRead (R180, R181) -/
  | rd (off : Nat)
  /-- `WAIT`: repeat `RD STATUS` until `BUSY` reads 0 (R96) -/
  | wait
  /-- `RESET` (R220) -/
  | reset
  /-- `IN = <bytes>`: the platform connects an input stream (R96, R66) -/
  | input (bytes : List Byte)
  /-- `IN` = the `OUT` of the operation before (R97): the platform connects what the sink has received as the input stream,
  and a fresh sink (log 26) -/
  | feedBack
deriving DecidableEq, Repr

/-- One entry of the schedule (R8): which agent moves, and for the sequencer whether the source and the sink are willing
(R154). -/
inductive Turn where
  | host
  | seq (src snk : Bool)
deriving DecidableEq, Repr

/-- The state. -/
structure State where
  /-- `CTRL` (R23) -/
  ctrl : Ctrl
  /-- `LEN` (R24) -/
  len : DWord
  /-- `KEY` (R25) -/
  key : Word
  /-- the stored flags of `STATUS` (R26) -/
  flags : Flags
  /-- `PHASE` (R29) -/
  phase : Phase
  /-- `CNT` (R29) -/
  cnt : BitVec 4
  /-- `POS` (R28) -/
  pos : DWord
  /-- the header record (R27) -/
  hdr : Header
  /-- `IN`: the bytes the source has not yet delivered (R31) -/
  inp : List Byte
  /-- the source's level `in_eos`, which stays 1 once it is 1 (R56, log 9) -/
  inEos : Bool
  /-- `OUT`: the bytes the sink has accepted (R31) -/
  out : List Byte
  /-- the lines the host has still to run (R96, log 2) -/
  host : List HostLine
  /-- the values the host has read, oldest first (R181, log 8) -/
  reads : List Word
  /-- the schedule: whose turn it is next (R8, log 1) -/
  turns : List Turn
  /-- the part of the schedule that repeats for ever once `turns` is used up (R8, R171, log 1) -/
  cycle : List Turn
  /-- the parameters of R6, which no step changes (log 3) -/
  cfg : Params
deriving DecidableEq, Repr

/-- Why the machine stops. The block itself has no fault (R195): both reasons are for values of `CNT` that name no byte,
in states that no run reaches (log 12). -/
inductive Fault where
  /-- Raised by `ENCODE` in phase `ENC_HDR` when `CNT` is not below `hdrlen(H_B1)`: R120 defines HDRBYTE only below it.
  Safe: the machine stops where the spec gives no byte to emit. -/
  | headerIndexOutOfRange
  /-- Raised by `DECODE` in phase `DEC_KEY` when `CNT` is 4 or more: H_KEY has the elements 0 to 3 only (R27, R160).
  Safe: the machine stops where the spec names no byte to write. -/
  | keyIndexOutOfRange
deriving DecidableEq, Repr

/-- Why a step has no meaning. -/
inductive Refusal where
  /-- An instruction without a meaning; raised by a refused arm of `exec` only, and no arm is refused. Safe. -/
  | notModelled (mnemonic : String)
  /-- Raised by the host lines `IN = <bytes>` and `IN = OUT` (`feedBack`) while an operation runs: a source that withdraws its end-of-stream or is
  moved in mid-frame breaks its contract, and the spec refuses it (U13). Safe. -/
  | inputReplacedWhileBusy
deriving DecidableEq, Repr

/-- What a step answers. -/
abbrev Result := Host.Outcome State Fault Refusal

/-- The reset values of `CTRL` (R36): mask, Binary, default key, masked. -/
def Ctrl.reset : Ctrl := { dir := false, opsel := Config.defaultOpsel, keyEn := false, maskEn := true }

/-- All flags 0: their reset values (R36) and, but for `BUSY`, what START clears them to (R182). -/
def Flags.zero : Flags :=
  { busy := false, done := false, eTrunc := false, eEos := false, dMalformed := false, dUnmasked := false }

/-- The header record all zero: its reset value (R36) and what START clears it to (R182). -/
def Header.zero : Header := { b0 := 0, b1 := 0, len := 0, key := Key.zero }

/-- The machine right after reset (R36), with empty streams (log 7), an idle host (log 2, log 8), no schedule (log 1) and
the parameters of R6. -/
def State.reset : State where
  ctrl := Ctrl.reset
  len := 0
  key := 0
  flags := Flags.zero
  phase := .idle
  cnt := 0
  pos := 0
  hdr := Header.zero
  inp := []
  inEos := false
  out := []
  host := []
  reads := []
  turns := []
  cycle := []
  cfg := Config.params

end Sys2Proof.Machine
end

