-- ==== Sys2Proof/Machine/Operands.lean ====
section
/-! DEFINITION. Fields of header bytes, lengths of a header, operand assembly, and the layout of keys and lengths in
registers: the helpers every operation reads its operands with. -/

namespace Sys2Proof.Machine

/-- `len7 = B1[6:0]` (R82). -/
def len7 (b1 : Byte) : BitVec 7 := b1.extractLsb' 0 7

/-- The mask bit `B1[7]` (R82). -/
def maskBit (b1 : Byte) : Bool := b1.getLsbD 7

/-- `fin = B0[7]` (R81). -/
def finBit (b0 : Byte) : Bool := b0.getLsbD 7

/-- The reserved bits `B0[6:4]` (R81). -/
def reservedBits (b0 : Byte) : BitVec 3 := b0.extractLsb' 4 3

/-- `opcode = B0[3:0]` (R81). -/
def opcodeOf (b0 : Byte) : BitVec 4 := b0.extractLsb' 0 4

/-- The number of extended-length bytes (R86). -/
def extlen (b1 : Byte) : Nat :=
  if (len7 b1).toNat ≤ 125 then 0 else if (len7 b1).toNat = 126 then 2 else 8

/-- The number of key bytes (R86). -/
def keylen (b1 : Byte) : Nat := if maskBit b1 then 4 else 0

/-- The length of a header, a function of `B1` alone (R86). -/
def hdrlen (b1 : Byte) : Nat := 2 + extlen b1 + keylen b1

/-- `opc(OPSEL)`: the frame opcode an encoder emits (R23, R89). -/
def opc (opsel : Bool) : BitVec 4 := if opsel then 2#4 else 1#4

/-- The first header byte of an encoder: FIN set, reserved bits zero, the opcode (R111). -/
def firstByte (o : BitVec 4) : Byte := 0x80#8 ||| o.setWidth 8

/-- The 7-bit code of a length; the comparisons are unsigned on all 64 bits (R88, R112). -/
def len7code (n : DWord) : BitVec 7 :=
  if n.toNat ≤ 125 then n.setWidth 7 else if n.toNat ≤ 65535 then 126#7 else 127#7

/-- Byte `i` of a key, `key[i]` (R10); `i` is the two bits `p mod 4` (R140). -/
def keyAt (k : Key) (i : BitVec 2) : Byte :=
  if i = 0#2 then k.k0 else if i = 1#2 then k.k1 else if i = 2#2 then k.k2 else k.k3

/-- A key with byte `i` replaced (R160). -/
def keySet (k : Key) (i : BitVec 2) (b : Byte) : Key :=
  if i = 0#2 then { k with k0 := b } else if i = 1#2 then { k with k1 := b }
  else if i = 2#2 then { k with k2 := b } else { k with k3 := b }

/-- The four bytes of a key in array order, as they travel (R59, R116). -/
def keyBytes (k : Key) : List Byte := [k.k0, k.k1, k.k2, k.k3]

/-- The key a 32-bit register holds: `[31:24]` is `key[0]` (R25). -/
def keyOfWord (w : Word) : Key :=
  ⟨w.extractLsb' 24 8, w.extractLsb' 16 8, w.extractLsb' 8 8, w.extractLsb' 0 8⟩

/-- A key as a 32-bit register shows it (R27). -/
def wordOfKey (k : Key) : Word :=
  (k.k0.setWidth 32 <<< 24) ||| (k.k1.setWidth 32 <<< 16) ||| (k.k2.setWidth 32 <<< 8) ||| k.k3.setWidth 32

/-- The low half of a 64-bit quantity, at the lower offset (R22). -/
def lowHalf (d : DWord) : Word := d.extractLsb' 0 32

/-- The high half of a 64-bit quantity (R22). -/
def highHalf (d : DWord) : Word := d.extractLsb' 32 32

/-- A 64-bit quantity with its low half replaced (R185). -/
def setLow (d : DWord) (v : Word) : DWord := ((highHalf d).setWidth 64 <<< 32) ||| v.setWidth 64

/-- A 64-bit quantity with its high half replaced (R185). -/
def setHigh (d : DWord) (v : Word) : DWord := (v.setWidth 64 <<< 32) ||| (lowHalf d).setWidth 64

/-- The 16-bit big-endian sequence `be16(n)` (R11). -/
def be16 (n : DWord) : List Byte := [n.extractLsb' 8 8, n.extractLsb' 0 8]

/-- The 64-bit big-endian sequence `be64(n)` (R11). -/
def be64 (n : DWord) : List Byte :=
  [n.extractLsb' 56 8, n.extractLsb' 48 8, n.extractLsb' 40 8, n.extractLsb' 32 8,
    n.extractLsb' 24 8, n.extractLsb' 16 8, n.extractLsb' 8 8, n.extractLsb' 0 8]

/-- One step of the big-endian accumulation `(n << 8) | r` (R123, R159). -/
def accumulate (n : DWord) (r : Byte) : DWord := (n <<< 8) ||| r.setWidth 64

/-- Header byte by index, `HDRBYTE(i)` for `i < hdrlen(H_B1)`, from the header record; there is none at other indexes
(R120). -/
def hdrByte (h : Header) (i : Nat) : Option Byte :=
  let e := extlen h.b1
  if i = 0 then some h.b0
  else if i = 1 then some h.b1
  else if i < 2 + e then some (h.len.extractLsb' (8 * (e - 1 - (i - 2))) 8)
  else if i < hdrlen h.b1 then some (keyAt h.key (BitVec.ofNat 2 (i - 2 - e)))
  else none

/-- The value of `CTRL.MASK_EN`: the stored bit when `P_UNMASKED_ENCODE` is true, otherwise hard-wired to 1 (R23). -/
def maskEnabled (s : State) : Bool := if s.cfg.unmaskedEncode then s.ctrl.maskEn else true

/-- The key a `MASK` uses: zero for an unmasked frame, else `KEY` or the default, as `KEY_EN` says (R150, R152). -/
def maskKey (s : State) : Key :=
  if maskEnabled s then (if s.ctrl.keyEn then keyOfWord s.key else s.cfg.defaultKey) else Key.zero

end Sys2Proof.Machine
end

