-- ==== Sys2Proof/Machine/Flags.lean ====
section
/-! DEFINITION. The four error kinds and their codes (R195), the marker test (R125), the flags an event sets, and the
`CTRL` and `STATUS` words with the status wires. -/

namespace Sys2Proof.Machine

/-- The complete list of events the block can raise (R195). -/
inductive ErrKind where
  | truncatedHeader
  | unexpectedEndOfStream
  | malformedOpcodeOrFlags
  | unmaskedFrameEncountered
deriving DecidableEq, Repr

/-- The cause code of an event (R195). -/
def errCode : ErrKind → Nat
  | .truncatedHeader => 1
  | .unexpectedEndOfStream => 2
  | .malformedOpcodeOrFlags => 3
  | .unmaskedFrameEncountered => 4

/-- Fatal kinds end the operation; the others are diagnostics (R195). -/
def errFatal : ErrKind → Bool
  | .truncatedHeader => true
  | .unexpectedEndOfStream => true
  | .malformedOpcodeOrFlags => false
  | .unmaskedFrameEncountered => false

/-- The `STATUS` bit of an event: 7 + its cause code (R26). -/
def errBit (e : ErrKind) : Nat := 7 + errCode e

/-- The flags with the event's own flag set (R196 to R199). -/
def setFlag (e : ErrKind) (f : Flags) : Flags :=
  match e with
  | .truncatedHeader => { f with eTrunc := true }
  | .unexpectedEndOfStream => { f with eEos := true }
  | .malformedOpcodeOrFlags => { f with dMalformed := true }
  | .unmaskedFrameEncountered => { f with dUnmasked := true }

/-- The flag of an event (R195). -/
def flagOf (e : ErrKind) (f : Flags) : Bool :=
  match e with
  | .truncatedHeader => f.eTrunc
  | .unexpectedEndOfStream => f.eEos
  | .malformedOpcodeOrFlags => f.dMalformed
  | .unmaskedFrameEncountered => f.dUnmasked

/-- The marker test: whole-byte membership in `P_EXPECTED_B0` (R125, C1). -/
def markerOk (p : Params) (b0 : Byte) : Bool := p.expectedB0.contains b0

/-- `STATUS.ERROR`, not stored (R26). -/
def errorFlag (f : Flags) : Bool := f.eTrunc || f.eEos

/-- `STATUS.DIAG`, not stored (R26). -/
def diagFlag (f : Flags) : Bool := f.dMalformed || f.dUnmasked

/-- The number of a phase (R29). -/
def phaseCode : Phase → BitVec 3
  | .idle => 0
  | .encHdr => 1
  | .decB0 => 2
  | .decB1 => 3
  | .decExt => 4
  | .decKey => 5
  | .payload => 6

/-- `CTRL` as it reads: bit 0 (START) and the reserved bits read 0 (R23). -/
def ctrlWord (s : State) : Word :=
  bitAt 1 s.ctrl.dir ||| bitAt 2 s.ctrl.opsel ||| bitAt 3 s.ctrl.keyEn ||| bitAt 4 (maskEnabled s)

/-- `STATUS` as it reads (R26). -/
def statusWord (s : State) : Word :=
  bitAt 0 s.flags.busy ||| bitAt 1 s.flags.done ||| bitAt 2 (errorFlag s.flags) ||| bitAt 3 (diagFlag s.flags) |||
    bitAt 8 s.flags.eTrunc ||| bitAt 9 s.flags.eEos ||| bitAt 10 s.flags.dMalformed ||| bitAt 11 s.flags.dUnmasked |||
    ((phaseCode s.phase).setWidth 32 <<< 16) ||| (s.cnt.setWidth 32 <<< 20)

/-- The wire `busy` (R35). -/
def busyWire (s : State) : Bool := s.flags.busy

/-- The wire `done` (R35). -/
def doneWire (s : State) : Bool := s.flags.done

/-- The wire `error` (R35). -/
def errorWire (s : State) : Bool := errorFlag s.flags

end Sys2Proof.Machine
end

