-- ==== Sys2Proof/Machine/Ops.lean ====
section
/-! DEFINITION. The named operations every meaning is built from: the two stream primitives (R53, R55), raising an event
(R195 to R201), the transitions shared by the steps (R156, R161, R164), what START clears and stores (R182, R184), register
reads and parameter writes (R181 to R189), and reset (R220). There is no return from an error to stand beside `raise`: an
operation "either runs to completion or fails outright" (R203). -/

namespace Sys2Proof.Machine

/-- `InRead()`: the next byte, consumed, or `EOS`, consuming nothing (R53). -/
def inRead (s : State) : Option Byte × State :=
  match s.inp with
  | [] => (none, s)
  | b :: rest => (some b, { s with inp := rest })

/-- `OutWrite(b)` (R55). -/
def outWrite (b : Byte) (s : State) : State := { s with out := s.out ++ [b] }

/-- The fatal exit: `PHASE <- IDLE; CNT <- 0; BUSY <- 0`; everything else is left as it was (R165, R200). -/
def fatalExit (s : State) : State :=
  { s with phase := .idle, cnt := 0, flags := { s.flags with busy := false } }

/-- Raising an event, the block's one way to take an exception. A fatal kind sets its flag and ends the operation
(R200). A diagnostic sets its flag and nothing else (R201), but that an unmasked frame also gets the zero key (R199). -/
def raise (e : ErrKind) (s : State) : State :=
  match e with
  | .truncatedHeader => fatalExit { s with flags := setFlag e s.flags }
  | .unexpectedEndOfStream => fatalExit { s with flags := setFlag e s.flags }
  | .malformedOpcodeOrFlags => { s with flags := setFlag e s.flags }
  | .unmaskedFrameEncountered => { s with flags := setFlag e s.flags, hdr := { s.hdr with key := Key.zero } }

/-- One read of a step: on `EOS` raise the fatal `e`, on a byte go on with `k` (R157 to R160, R162). -/
def readOr (e : ErrKind) (k : Byte → State → Result) (s : State) : Result :=
  match inRead s with
  | (none, s1) => .next (raise e s1)
  | (some b, s1) => k b s1

/-- `finish` (R164). -/
def finish (s : State) : State :=
  { s with phase := .idle, cnt := 0, flags := { s.flags with busy := false, done := true } }

/-- `PAYSTART`, the transition of the step that completes the header (R156). -/
def payStart (s : State) : State :=
  if s.hdr.len = 0 then finish { s with cnt := 0, pos := 0 } else { s with cnt := 0, pos := 0, phase := .payload }

/-- `KEYSTEP`, the transition of the step that completes the length (R161). -/
def keyStep (s : State) : State :=
  if maskBit s.hdr.b1 then { s with cnt := 0, phase := .decKey }
  else payStart (raise .unmaskedFrameEncountered s)

/-- The mode bits a `CTRL` write stores; `MASK_EN` only if `P_UNMASKED_ENCODE` (R182, R184). -/
def storeMode (dir opsel keyEn maskEn : Bool) (s : State) : State :=
  { s with
    ctrl :=
      { dir := dir, opsel := opsel, keyEn := keyEn
        maskEn := if s.cfg.unmaskedEncode then maskEn else s.ctrl.maskEn } }

/-- What every accepted START clears, and `BUSY <- 1` (R182). -/
def startClear (s : State) : State :=
  { s with
    flags := { Flags.zero with busy := true }
    hdr := Header.zero, pos := 0, cnt := 0 }

/-- The header record a `MASK` works from, and the first phase (R152). -/
def loadHeader (s : State) : State :=
  { s with
    hdr :=
      { b0 := firstByte (opc s.ctrl.opsel)
        b1 := byteB1 (maskEnabled s) (len7code s.len)
        len := s.len
        key := maskKey s }
    phase := .encHdr, cnt := 0 }

/-- The register offsets of R22. -/
def regCtrl : Nat := 0x00
def regStatus : Nat := 0x04
def regLenLo : Nat := 0x08
def regLenHi : Nat := 0x0C
def regKey : Nat := 0x10
def regHdr0 : Nat := 0x14
def regHdrLenLo : Nat := 0x18
def regHdrLenHi : Nat := 0x1C
def regHdrKey : Nat := 0x20
def regPosLo : Nat := 0x24
def regPosHi : Nat := 0x28

/-- `RegRead(off)`: every register as R22 to R28 lay it out; 0 at every other offset (R181, R189). -/
def regRead (off : Nat) (s : State) : Word :=
  if off = regCtrl then ctrlWord s
  else if off = regStatus then statusWord s
  else if off = regLenLo then lowHalf s.len
  else if off = regLenHi then highHalf s.len
  else if off = regKey then s.key
  else if off = regHdr0 then (s.hdr.b1.setWidth 32 <<< 8) ||| s.hdr.b0.setWidth 32
  else if off = regHdrLenLo then lowHalf s.hdr.len
  else if off = regHdrLenHi then highHalf s.hdr.len
  else if off = regHdrKey then wordOfKey s.hdr.key
  else if off = regPosLo then lowHalf s.pos
  else if off = regPosHi then highHalf s.pos
  else 0

/-- `RegWrite(off, v)` apart from START, which is an instruction (`MASK`, `UNMASK`): ignored whole while `BUSY` (R183),
else it stores mode bits (R184), a half of `LEN` (R185) or `KEY` (R186); read-only and unmapped offsets ignore it (R187,
R189). -/
def regWrite (off : Nat) (v : Word) (s : State) : State :=
  if s.flags.busy then s
  else if off = regCtrl then storeMode (v.getLsbD 1) (v.getLsbD 2) (v.getLsbD 3) (v.getLsbD 4) s
  else if off = regLenLo then { s with len := setLow s.len v }
  else if off = regLenHi then { s with len := setHigh s.len v }
  else if off = regKey then { s with key := v }
  else s

/-- Reset: every piece of the block's state to its value of R36; the streams, the environment and the parameters are not
the block's (R220, R221). -/
def blockReset (s : State) : State :=
  { s with
    ctrl := Ctrl.reset, len := 0, key := 0, flags := Flags.zero
    phase := .idle, cnt := 0, pos := 0, hdr := Header.zero }

end Sys2Proof.Machine
end

