-- ==== Sys2Proof/Machine/Command.lean ====
section
/-! DEFINITION. The two host commands: an accepted START (R182) with `DIR` = 0 (R152) or `DIR` = 1 (R153). -/

namespace Sys2Proof.Machine

/-- An accepted START up to the point where the directions part: mode bits stored, then everything cleared (R182). -/
def start (dir opsel keyEn maskEn : Bool) (s : State) : State :=
  startClear (storeMode dir opsel keyEn maskEn s)

/-- `MASK` (R150, R152); ignored whole while `BUSY` (R183). -/
def execMask (opsel keyEn maskEn : Bool) (s : State) : Result :=
  if s.flags.busy then .next s
  else .next (loadHeader (start false opsel keyEn maskEn s))

/-- `UNMASK` (R151, R153); ignored whole while `BUSY` (R183). -/
def execUnmask (opsel keyEn maskEn : Bool) (s : State) : Result :=
  if s.flags.busy then .next s
  else .next { start true opsel keyEn maskEn s with phase := .decB0, cnt := 0 }

end Sys2Proof.Machine
end

