-- ==== Sys2Proof/Machine/Codec.lean ====
section
/-! DEFINITION. The document's functions as pure functions: `ENCODE` (R110), `DECODE` (R123) and `APPLY` (R140), with the
transform of a whole payload (R142). The machine performs them one byte per step; 42_orchestration.md R155 to R162. -/

namespace Sys2Proof.Machine

/-- `ENCODE(n, o, m, k)` (R110 to R119): the minimal tier, no guard on `n` (R118), an unmasked header when `m` is false
(R119). -/
def encodeHeader (n : DWord) (o : BitVec 4) (m : Bool) (k : Key) : List Byte :=
  let ext := if n.toNat ≤ 125 then [] else if n.toNat ≤ 65535 then be16 n else be64 n
  [firstByte o, byteB1 m (len7code n)] ++ ext ++ (if m then keyBytes k else [])

/-- The unsigned number big-endian bytes spell (R58). -/
def beValue (bytes : List Byte) : DWord := bytes.foldl accumulate 0

/-- What `DECODE` leaves: the header record with the fields that were read, its two diagnostics, whether it failed with
`TruncatedHeader`, and the bytes it did not consume (R123, R202). -/
structure HeaderRead where
  hdr : Header
  malformed : Bool
  unmasked : Bool
  truncated : Bool
  rest : List Byte
deriving DecidableEq, Repr

/-- The key of a header whose length is complete: four bytes, or fewer with a truncated header, or the zero key with the
diagnostic when the mask bit is clear (R130, R131). -/
def decodeKey (h : Header) (mal : Bool) (bytes : List Byte) : HeaderRead :=
  if maskBit h.b1 then
    match bytes with
    | k0 :: k1 :: k2 :: k3 :: rest => ⟨{ h with key := ⟨k0, k1, k2, k3⟩ }, mal, false, false, rest⟩
    | [k0, k1, k2] => ⟨{ h with key := ⟨k0, k1, k2, 0⟩ }, mal, false, true, []⟩
    | [k0, k1] => ⟨{ h with key := ⟨k0, k1, 0, 0⟩ }, mal, false, true, []⟩
    | [k0] => ⟨{ h with key := ⟨k0, 0, 0, 0⟩ }, mal, false, true, []⟩
    | [] => ⟨h, mal, false, true, []⟩
  else ⟨{ h with key := Key.zero }, mal, true, false, bytes⟩

/-- The length of a header: the 7-bit field, or the extended length, big-endian; a partly read one is right-aligned
(R127 to R129, R32). -/
def decodeLength (b0 b1 : Byte) (mal : Bool) (bytes : List Byte) : HeaderRead :=
  let e := extlen b1
  let h : Header := { b0 := b0, b1 := b1, len := 0, key := Key.zero }
  if e = 0 then decodeKey { h with len := (len7 b1).setWidth 64 } mal bytes
  else if bytes.length < e then ⟨{ h with len := beValue bytes }, mal, false, true, []⟩
  else decodeKey { h with len := beValue (bytes.take e) } mal (bytes.drop e)

/-- `DECODE()` on a stream (R123 to R134). -/
def decodeHeader (p : Params) (bytes : List Byte) : HeaderRead :=
  match bytes with
  | [] => ⟨Header.zero, false, false, true, []⟩
  | [b0] => ⟨{ Header.zero with b0 := b0 }, !markerOk p b0, false, true, []⟩
  | b0 :: b1 :: rest => decodeLength b0 b1 (!markerOk p b0) rest

/-- `APPLY(b, p, k) = b XOR k[p mod 4]`, where `p mod 4` is `p[1:0]` (R140). -/
def applyByte (b : Byte) (p : DWord) (k : Key) : Byte := b ^^^ keyAt k (p.extractLsb' 0 2)

/-- The transform of consecutive payload bytes, the first of them at offset `p` (R142). -/
def transform (k : Key) (p : DWord) : List Byte → List Byte
  | [] => []
  | b :: rest => applyByte b p k :: transform k (p + 1) rest

end Sys2Proof.Machine
end

