-- ==== Sys2Proof/Machine/HeaderCodec.lean ====
section
/-! DEFINITION. The header codec, one byte per step: `ENCODE` (phase `ENC_HDR`, R155), `DECODE` (phases `DEC_B0` to
`DEC_KEY`, R157 to R161), and the rows that are wire forms: `TEXT` and `BINARY` are the step in which `B0` passes, the six
header forms the step in which `B1` passes, whether it is emitted or received (log 10). In a phase to which a step does not
belong it "does not happen and changes nothing" (R154, log 11). -/

namespace Sys2Proof.Machine

/-- After a header byte is out: the next index, or `PAYSTART` (R155). -/
def encAdvance (s : State) : State :=
  if s.cnt.toNat + 1 < hdrlen s.hdr.b1 then { s with cnt := s.cnt + 1 } else payStart s

/-- A header byte leaves (R155). -/
def emitHeaderByte (b : Byte) (s : State) : State := encAdvance (outWrite b s)

/-- `DEC_B0` with the byte that was read (R157): stored whole (R124), tested against the marker (R125). -/
def receiveB0 (b : Byte) (s : State) : State :=
  if markerOk s.cfg b then { s with hdr := { s.hdr with b0 := b }, phase := .decB1 }
  else raise .malformedOpcodeOrFlags { s with hdr := { s.hdr with b0 := b }, phase := .decB1 }

/-- `DEC_B1` with the byte that was read (R158). -/
def receiveB1 (b : Byte) (s : State) : State :=
  if (len7 b).toNat ≤ 125 then
    keyStep { s with hdr := { s.hdr with b1 := b, len := (len7 b).setWidth 64 } }
  else { s with hdr := { s.hdr with b1 := b, len := 0 }, cnt := 0, phase := .decExt }

/-- `DEC_EXT` with the byte that was read (R159). -/
def receiveExt (b : Byte) (s : State) : State :=
  if s.cnt.toNat + 1 < extlen s.hdr.b1 then
    { s with hdr := { s.hdr with len := accumulate s.hdr.len b }, cnt := s.cnt + 1 }
  else keyStep { s with hdr := { s.hdr with len := accumulate s.hdr.len b }, cnt := 0 }

/-- `DEC_KEY` with the byte that was read (R160); a `CNT` that is no index of the key stops (log 12). -/
def receiveKey (b : Byte) (s : State) : Result :=
  if s.cnt.toNat + 1 < 4 then
    .next { s with hdr := { s.hdr with key := keySet s.hdr.key (s.cnt.setWidth 2) b }, cnt := s.cnt + 1 }
  else if s.cnt.toNat + 1 = 4 then
    .next (payStart { s with hdr := { s.hdr with key := keySet s.hdr.key (s.cnt.setWidth 2) b }, cnt := 0 })
  else .fault .keyIndexOutOfRange

/-- `ENCODE`, one step of phase `ENC_HDR` (R155): the byte is `HDRBYTE(CNT)` (R120). -/
def execEncode (s : State) : Result :=
  match s.phase with
  | .encHdr =>
    match hdrByte s.hdr s.cnt.toNat with
    | some b => .next (emitHeaderByte b s)
    | none => .fault .headerIndexOutOfRange
  | _ => .next s

/-- `DECODE`, one step of phase `DEC_B0`, `DEC_B1`, `DEC_EXT` or `DEC_KEY` (R157 to R161); any missing byte is a
truncated header (R131). -/
def execDecode (s : State) : Result :=
  match s.phase with
  | .decB0 => readOr .truncatedHeader (fun b s1 => .next (receiveB0 b s1)) s
  | .decB1 => readOr .truncatedHeader (fun b s1 => .next (receiveB1 b s1)) s
  | .decExt => readOr .truncatedHeader (fun b s1 => .next (receiveExt b s1)) s
  | .decKey => readOr .truncatedHeader receiveKey s
  | _ => .next s

/-- The step in which the first header byte `b` passes: received in `DEC_B0`, emitted in `ENC_HDR` at index 0 (R81). The
byte the stream has on offer is taken to be `b` (log 25). -/
def passB0 (b : Byte) (s : State) : Result :=
  match s.phase with
  | .decB0 => readOr .truncatedHeader (fun _ s1 => .next (receiveB0 b s1)) s
  | .encHdr => if s.cnt = 0 then .next (emitHeaderByte b s) else .next s
  | _ => .next s

/-- The step in which the second header byte `b` passes: received in `DEC_B1`, emitted in `ENC_HDR` at index 1 (R82). -/
def passB1 (b : Byte) (s : State) : Result :=
  match s.phase with
  | .decB1 => readOr .truncatedHeader (fun _ s1 => .next (receiveB1 b s1)) s
  | .encHdr => if s.cnt = 1 then .next (emitHeaderByte b s) else .next s
  | _ => .next s

/-- `TEXT` (R89). -/
def execText (hi : BitVec 4) (s : State) : Result := passB0 (byteB0 hi 1#4) s

/-- `BINARY` (R89). -/
def execBinary (hi : BitVec 4) (s : State) : Result := passB0 (byteB0 hi 2#4) s

/-- `HDR7M` (R83); `B0` "never affects" the form (R86). -/
def execHdr7m (_b0 : Byte) (n7 : BitVec 7) (s : State) : Result := passB1 (byteB1 true n7) s

/-- `HDR7U` (R83). -/
def execHdr7u (_b0 : Byte) (n7 : BitVec 7) (s : State) : Result := passB1 (byteB1 false n7) s

/-- `HDR16M` (R84). -/
def execHdr16m (_b0 : Byte) (s : State) : Result := passB1 0xFE#8 s

/-- `HDR16U` (R84). -/
def execHdr16u (_b0 : Byte) (s : State) : Result := passB1 0x7E#8 s

/-- `HDR64M` (R85). -/
def execHdr64m (_b0 : Byte) (s : State) : Result := passB1 0xFF#8 s

/-- `HDR64U` (R85). -/
def execHdr64u (_b0 : Byte) (s : State) : Result := passB1 0x7F#8 s

end Sys2Proof.Machine
end

