-- ==== Sys2Proof/Machine/Transform.lean ====
section
/-! DEFINITION. `APPLY` as the sequencer performs it: one step of phase `PAYLOAD` (R162). -/

namespace Sys2Proof.Machine

/-- After a payload byte is out: `POS` counts it, and the operation is finished when `POS` has reached `H_LEN`, compared
after the increment (R162). -/
def payAdvance (s : State) : State :=
  if s.pos + 1 = s.hdr.len then finish { s with pos := s.pos + 1 } else { s with pos := s.pos + 1 }

/-- `APPLY`: read a payload byte, emit its transform (R140), in one step (R71); `EOS` is the fatal error of R197. -/
def execApply (s : State) : Result :=
  match s.phase with
  | .payload =>
    readOr .unexpectedEndOfStream
      (fun b s1 => .next (payAdvance (outWrite (applyByte b s1.pos s1.hdr.key) s1))) s
  | _ => .next s

end Sys2Proof.Machine
end

