-- ==== Sys2Proof/Machine/Dispatch.lean ====
section
/-! DEFINITION. One arm per row of the opcode table. -/

namespace Sys2Proof.Machine

def exec (i : Instr) (s : State) : Host.Outcome State Fault Refusal :=
  match i with
  -- the host commands
  | .mask opsel keyEn maskEn => Sys2Proof.Machine.execMask opsel keyEn maskEn s
  | .unmask opsel keyEn maskEn => Sys2Proof.Machine.execUnmask opsel keyEn maskEn s
  -- the operations the sequencer invokes
  | .encode => Sys2Proof.Machine.execEncode s
  | .decode => Sys2Proof.Machine.execDecode s
  | .apply => Sys2Proof.Machine.execApply s
  -- the header forms
  | .hdr7m b0 n7 => Sys2Proof.Machine.execHdr7m b0 n7 s
  | .hdr7u b0 n7 => Sys2Proof.Machine.execHdr7u b0 n7 s
  | .hdr16m b0 => Sys2Proof.Machine.execHdr16m b0 s
  | .hdr16u b0 => Sys2Proof.Machine.execHdr16u b0 s
  | .hdr64m b0 => Sys2Proof.Machine.execHdr64m b0 s
  | .hdr64u b0 => Sys2Proof.Machine.execHdr64u b0 s
  -- the frame opcodes
  | .text hi => Sys2Proof.Machine.execText hi s
  | .binary hi => Sys2Proof.Machine.execBinary hi s

end Sys2Proof.Machine
end

