-- ==== Sys2Proof/Machine/Fetch.lean ====
section
/-! DEFINITION. What happens next: whose turn it is (R7, R8), which instruction that agent's move is, and what choosing it
changes. The block fetches no instructions (R50); an instruction comes from a `CTRL` write with START (R93) or from the
phase of the sequencer and the bytes at hand (R154). -/

namespace Sys2Proof.Machine

/-- What a step does: an instruction of the opcode table, a line of the host that is no command, or nothing. -/
inductive Move where
  | run (i : Instr)
  | line (l : HostLine)
  | rest
deriving DecidableEq, Repr

/-- The turn of a machine that was given no schedule: the sequencer moves while it has an operation, with source and sink
willing (so that the liveness assumptions of R234 hold), and the host otherwise (log 1). -/
def unscheduledTurn (s : State) : Turn :=
  match s.phase with
  | .idle => .host
  | _ => .seq true true

/-- The turn a step takes: the head of `turns`, and when that list is used up the head of `cycle`. A cycle of unwilling turns
is a source or a sink that is never willing: the operation waits for ever (R171, R234, U12). -/
def currentTurn (s : State) : Turn :=
  match s.turns with
  | t :: _ => t
  | [] => match s.cycle with
    | t :: _ => t
    | [] => unscheduledTurn s

/-- What is left of `turns` after a step: its tail, and when it is used up a fresh round of `cycle`, whose head the step
takes (log 1). -/
def laterTurns (s : State) : List Turn :=
  match s.turns with
  | _ :: ts => ts
  | [] => s.cycle.tail

/-- Whether the source offers an item: it is willing, or it has raised `in_eos`, which it cannot withdraw (R56, log 9). -/
def sourceReady (s : State) (src : Bool) : Bool := src || s.inEos

/-- The instruction by which a first header byte passes: its row, or the codec operation if it has none. -/
def firstByteInstr (b : Byte) (codec : Instr) : Instr :=
  match decodeB0 b with
  | .ok i => i
  | .error _ => codec

/-- The instruction the sequencer performs, if its step is enabled (R154): in `ENC_HDR` the sink must be willing (R155), in
the reading phases the source (R157 to R160), in `PAYLOAD` the source and, if it offers a byte, the sink (R162). -/
def seqInstr (s : State) (src snk : Bool) : Option Instr :=
  match s.phase with
  | .idle => none
  | .encHdr =>
    if snk then
      some (if s.cnt = 0 then firstByteInstr s.hdr.b0 .encode
        else if s.cnt = 1 then decodeHdr s.hdr.b0 s.hdr.b1
        else .encode)
    else none
  | .decB0 =>
    if sourceReady s src then
      match s.inp with
      | [] => some .decode
      | b :: _ => some (firstByteInstr b .decode)
    else none
  | .decB1 =>
    if sourceReady s src then
      match s.inp with
      | [] => some .decode
      | b :: _ => some (decodeHdr s.hdr.b0 b)
    else none
  | .decExt => if sourceReady s src then some .decode else none
  | .decKey => if sourceReady s src then some .decode else none
  | .payload => if sourceReady s src && (s.inp.isEmpty || snk) then some .apply else none

/-- What the host's next line is: a `CTRL` write with START is a command (R93), everything else a line of its own. -/
def hostMove (s : State) : Move :=
  match s.host with
  | [] => .rest
  | .wr off v :: _ =>
    if off = regCtrl then
      match decodeCtrl v with
      | .ok i => .run i
      | .error _ => .line (.wr off v)
    else .line (.wr off v)
  | l :: _ => .line l

/-- What the step does. -/
def fetch (s : State) : Move :=
  match currentTurn s with
  | .host => hostMove s
  | .seq src snk =>
    match seqInstr s src snk with
    | some i => .run i
    | none => .rest

/-- What taking the turn changes before the move itself: the schedule moves on, the host its line, and a willing
source that is empty has raised `in_eos` (R56). -/
def advance (s : State) : State :=
  match currentTurn s with
  | .host => { s with turns := laterTurns s, host := s.host.tail }
  | .seq src _ => { s with turns := laterTurns s, inEos := s.inEos || (src && s.inp.isEmpty) }

/-- A word of the opcode table placed where it is the next thing that happens (log 17): a `CTRL` value as the host's next
line, a header word as `H_B0` and the next input byte of phase `DEC_B1`, a first byte as the next input byte of phase
`DEC_B0`; each with the turn that takes it. -/
def placeWord (s : State) (nbits w : Nat) : State :=
  let word : Word := BitVec.ofNat 32 w
  match carrierOf nbits w with
  | some .ctrl =>
    { s with turns := .host :: s.turns, host := .wr regCtrl word :: s.host }
  | some .hdr =>
    { s with
      turns := .seq true true :: s.turns
      flags := { s.flags with busy := true }
      phase := .decB1, cnt := 0
      hdr := { s.hdr with b0 := word.extractLsb' 8 8 }
      inp := word.extractLsb' 0 8 :: s.inp, inEos := false }
  | some .b0 =>
    { s with
      turns := .seq true true :: s.turns
      flags := { s.flags with busy := true }
      phase := .decB0, cnt := 0
      inp := word.extractLsb' 0 8 :: s.inp, inEos := false }
  | some .internal => s
  | none => s

end Sys2Proof.Machine
end

