-- ==== Sys2Proof/Machine/HostOps.lean ====
section
/-! DEFINITION. The host's lines that are no command (43_host_operations.md, R96). -/

namespace Sys2Proof.Machine

/-- `RD`: the host has read the register; no side effect on the block (R181, R64). -/
def hostRead (off : Nat) (s : State) : State := { s with reads := s.reads ++ [regRead off s] }

/-- `WAIT`: read `STATUS`, and stay at this line while bit 0 (`BUSY`) reads 1 (R96). -/
def hostWait (s : State) : State :=
  if (statusWord s).getLsbD 0 then { hostRead regStatus s with host := .wait :: s.host } else hostRead regStatus s

/-- `IN = <bytes>`: a fresh input stream, positioned at its first byte, which only an idle block may be given (R66, R223 to
R225; U13, log 15). -/
def hostInput (bytes : List Byte) (s : State) : Result :=
  if s.flags.busy then .refused .inputReplacedWhileBusy
  else .next { s with inp := bytes, inEos := false }

/-- `IN = OUT`: what the sink has received becomes the input stream, and the sink is a fresh one (R97, R66; log 26). The block
must be idle, as for any new stream. -/
def hostFeedBack (s : State) : Result := hostInput s.out { s with out := [] }

/-- One line of the host program. -/
def hostLine (l : HostLine) (s : State) : Result :=
  match l with
  | .wr off v => .next (regWrite off v s)
  | .rd off => .next (hostRead off s)
  | .wait => .next (hostWait s)
  | .reset => .next (blockReset s)
  | .input bytes => hostInput bytes s
  | .feedBack => hostFeedBack s

/-- The pseudo-operation `MASK len=N, key=K, opcode=O` (R97). -/
def pseudoMaskKey (n : DWord) (k : Key) (binary : Bool) : List HostLine :=
  [.wr regLenLo (lowHalf n), .wr regLenHi (highHalf n), .wr regKey (wordOfKey k),
    .wr regCtrl (ctrlValue false binary true true), .wait]

/-- The pseudo-operation `MASK len=N, opcode=O`, the key omitted (R97). -/
def pseudoMask (n : DWord) (binary : Bool) : List HostLine :=
  [.wr regLenLo (lowHalf n), .wr regLenHi (highHalf n),
    .wr regCtrl (ctrlValue false binary false true), .wait]

/-- The pseudo-operation `UNMASK` (R97). -/
def pseudoUnmask : List HostLine := [.wr regCtrl 0x03#32, .wait]

/-- The pseudo-operation `Unmask(Mask(P, K))`: `MASK` with `IN = P`, then `UNMASK` with `IN` = the `OUT` of the first (R97).
`OUT` is empty before it, as every program of the spec's notation assumes (95_test_vectors.md). -/
def pseudoRoundTrip (payload : List Byte) (k : Key) (binary : Bool) : List HostLine :=
  [.input payload] ++ pseudoMaskKey (BitVec.ofNat 64 payload.length) k binary ++ [.feedBack] ++ pseudoUnmask

end Sys2Proof.Machine
end

