-- ==== Sys2Proof/Machine/Step.lean ====
section
/-! DEFINITION. One step of the machine: the turn is taken (`advance`), then the move happens. -/

namespace Sys2Proof.Machine

def step (s : State) : Host.Outcome State Fault Refusal :=
  match fetch s with
  | .run i => exec i (advance s)
  | .line l => hostLine l (advance s)
  | .rest => .next (advance s)

/-- `s` with a word of the opcode table as the next thing that happens (log 17). -/
def State.withFetchWord (s : State) (nbits w : Nat) : State := placeWord s nbits w

end Sys2Proof.Machine
end

