-- ==== Sys2Proof/Machine/Ports.lean ====
section
/-! DEFINITION. The port-level shape of the two streams (R56) as levels computed from the state and the willingness of the
two ends; no cycle is modelled (R233, log 20). -/

namespace Sys2Proof.Machine

/-- The stream ports of R56. A data port shows a byte only while its valid is 1. -/
structure Ports where
  inValid : Bool
  inEos : Bool
  inData : Option Byte
  inReady : Bool
  outValid : Bool
  outData : Option Byte
  outReady : Bool
deriving DecidableEq, Repr

/-- The phases in which a step reads (R54). -/
def readingPhase : Phase → Bool
  | .idle => false
  | .encHdr => false
  | .decB0 => true
  | .decB1 => true
  | .decExt => true
  | .decKey => true
  | .payload => true

/-- The levels of the ports (R56, D29). -/
def ports (s : State) (src snk : Bool) : Ports :=
  let offer := sourceReady s src
  let inValid := offer && !s.inp.isEmpty
  let inEos := offer && s.inp.isEmpty
  let payByte := decide (s.phase = .payload) && inValid && snk
  { inValid := inValid
    inEos := inEos
    inData := if inValid then s.inp.head? else none
    inReady := readingPhase s.phase && (decide (s.phase ≠ .payload) || snk || inEos)
    outValid := decide (s.phase = .encHdr) || payByte
    outData :=
      if s.phase = .encHdr then hdrByte s.hdr s.cnt.toNat
      else if payByte then s.inp.head?.map (fun b => applyByte b s.pos s.hdr.key)
      else none
    outReady := snk }

/-- An input item, a byte or `EOS`, is taken (R56). -/
def Ports.inTaken (p : Ports) : Bool := p.inReady && (p.inValid || p.inEos)

/-- An output byte is taken (R56). -/
def Ports.outTaken (p : Ports) : Bool := p.outValid && p.outReady

end Sys2Proof.Machine
end

