-- ==== Sys2Proof/Machine/Whole.lean ====
section
/-! DEFINITION. The two commands as whole functions from start state to end state (R150, R151), the way the document
states them. The step machine does not call them; that its runs end as they say is R168, stated in the obligations. -/

namespace Sys2Proof.Machine

/-- The flags at the end of an operation that transferred `got` of `n` payload bytes (R164, R197). -/
def endFlags (f : Flags) (got n : Nat) : Flags :=
  { f with busy := false, done := decide (got = n), eEos := decide (got < n) }

/-- The payload half of either command: the first `n` bytes of `input`, or as many as there are, are transformed in order
and emitted; what follows them is left (R150, R151, R166, R167). `s` holds everything else of the end state. -/
def payloadWhole (f : Flags) (input : List Byte) (s : State) : State :=
  let n := s.hdr.len.toNat
  let p := input.take n
  { s with
    flags := endFlags f p.length n
    phase := .idle, cnt := 0
    pos := BitVec.ofNat 64 p.length
    inp := input.drop n
    out := s.out ++ transform s.hdr.key 0 p }

/-- `MASK` from an idle state to its end (R150): header, payload, flags. -/
def maskWhole (opsel keyEn maskEn : Bool) (s : State) : State :=
  let s1 := storeMode false opsel keyEn maskEn s
  let m := maskEnabled s1
  payloadWhole Flags.zero s.inp
    { s1 with
      hdr := { b0 := firstByte (opc opsel), b1 := byteB1 m (len7code s.len), len := s.len, key := maskKey s1 }
      out := s.out ++ encodeHeader s.len (opc opsel) m (maskKey s1) }

/-- `UNMASK` from an idle state to its end (R151): `DECODE`, and after it the payload unless the header was truncated
(R200, R202). -/
def unmaskWhole (opsel keyEn maskEn : Bool) (s : State) : State :=
  let s1 := storeMode true opsel keyEn maskEn s
  let r := decodeHeader s.cfg s.inp
  let f := { Flags.zero with dMalformed := r.malformed, dUnmasked := r.unmasked }
  if r.truncated then
    { s1 with flags := { f with eTrunc := true }, phase := .idle, cnt := 0, pos := 0, hdr := r.hdr, inp := r.rest }
  else payloadWhole f r.rest { s1 with hdr := r.hdr }

end Sys2Proof.Machine
end

