-- ==== Sys2Proof/Safety.lean ====
section
/-! DEFINITION. Runs, and what holds of the machine between steps: the invariants claims are stated with. Each is a
decidable statement about one state. -/

namespace Sys2Proof.Machine

/-- The next state a result holds, if it is one. -/
def nextState? (r : Result) : Option State :=
  match r with
  | .next t => some t
  | .fault _ => none
  | .refused _ => none

/-- `n` steps, stopping at the first fault or refusal. -/
def runSteps : Nat → State → Result
  | 0, s => .next s
  | n + 1, s =>
    match step s with
    | .next t => runSteps n t
    | r => r

/-- A turn of the sequencer, not of the host. -/
def seqTurn : Turn → Bool
  | .host => false
  | .seq _ _ => true

/-- Source and sink are willing, and the sequencer moves, at every turn of the schedule. The empty schedule is such a one while
an operation runs (log 1). -/
abbrev AlwaysWilling (s : State) : Prop := ∀ u ∈ s.turns ++ s.cycle, u = .seq true true

/-- The liveness assumptions of R234 on a schedule of the sequencer: source and sink are willing together again and again,
either once in every round of `cycle` or, without a schedule, always (log 1). -/
abbrev EventuallyWilling (s : State) : Prop :=
  (∀ u ∈ s.turns ++ s.cycle, seqTurn u = true) ∧ (s.cycle = [] ∨ .seq true true ∈ s.cycle)

/-- A running operation waits on its environment (R154, R171): for the sink with a header byte to emit, for a source that
offers neither a byte nor `EOS`, or in `PAYLOAD` for the sink with a byte on offer. -/
abbrev Waits (s : State) (src snk : Bool) : Prop :=
  (s.phase = .encHdr ∧ snk = false) ∨
  (s.phase ∈ [Phase.decB0, Phase.decB1, Phase.decExt, Phase.decKey, Phase.payload] ∧ src = false ∧ s.inEos = false) ∨
  (s.phase = .payload ∧ snk = false ∧ s.inp ≠ [])

/-- `PHASE` is not `IDLE` exactly when `BUSY` = 1 (R26). -/
abbrev BusyInv (s : State) : Prop := s.flags.busy = true ↔ s.phase ≠ .idle

/-- The combinations of outcome flags that can accumulate (R191, R205): none while busy, at most one of `DONE`, `E_TRUNC`,
`E_EOS`, never `E_TRUNC` with `D_UNMASKED`, and no `D_UNMASKED` before the length is complete. -/
abbrev FlagInv (s : State) : Prop :=
  (s.flags.busy = true → s.flags.done = false ∧ s.flags.eTrunc = false ∧ s.flags.eEos = false) ∧
  (s.flags.done = true → s.flags.eTrunc = false ∧ s.flags.eEos = false) ∧
  (s.flags.eTrunc = true → s.flags.eEos = false ∧ s.flags.dUnmasked = false) ∧
  (s.phase ∈ [Phase.decB0, Phase.decB1, Phase.decExt, Phase.decKey] → s.flags.dUnmasked = false)

/-- What `CNT` counts in each phase, and its range there (R29). -/
abbrev CntInv (s : State) : Prop :=
  (s.phase ∈ [Phase.idle, Phase.decB0, Phase.decB1, Phase.payload] → s.cnt = 0) ∧
  (s.phase = .encHdr → s.cnt.toNat < hdrlen s.hdr.b1) ∧
  (s.phase = .decExt → s.cnt.toNat < extlen s.hdr.b1) ∧
  (s.phase = .decKey → s.cnt.toNat < 4)

/-- `POS` in each phase and at each end of an operation (R28, R162, R164, R197): below `H_LEN` in `PAYLOAD`, 0 before it,
`H_LEN` when done. -/
abbrev PosInv (s : State) : Prop :=
  (s.phase = .payload → s.pos.toNat < s.hdr.len.toNat) ∧
  (s.phase ∈ [Phase.encHdr, Phase.decB0, Phase.decB1, Phase.decExt, Phase.decKey] → s.pos = 0) ∧
  (s.flags.done = true → s.pos = s.hdr.len) ∧
  (s.flags.eEos = true → s.pos.toNat < s.hdr.len.toNat) ∧
  (s.flags.eTrunc = true → s.pos = 0)

/-- The direction of the running operation (R152, R153, R195): the encode phase belongs to `MASK`, the decode phases to
`UNMASK`, and no diagnostic is set in a `MASK`. -/
abbrev DirInv (s : State) : Prop :=
  (s.phase = .encHdr → s.ctrl.dir = false) ∧
  (s.phase ∈ [Phase.decB0, Phase.decB1, Phase.decExt, Phase.decKey] → s.ctrl.dir = true) ∧
  (s.flags.busy = true → s.ctrl.dir = false → s.flags.dMalformed = false ∧ s.flags.dUnmasked = false)

/-- A complete length agrees with the tier its `B1` names (R127 to R129). -/
abbrev lengthFits (b1 : Byte) (n : DWord) : Prop :=
  ((len7 b1).toNat ≤ 125 → n.toNat = (len7 b1).toNat) ∧ ((len7 b1).toNat = 126 → n.toNat ≤ 65535)

/-- The header record while it is being built and used (R27, R32, R152, R153): zero where nothing was read yet, a partly
read length below `256 ^ CNT`, key bytes from `CNT` on zero, a zero key whenever the mask bit is 0. -/
abbrev RecordInv (s : State) : Prop :=
  (maskBit s.hdr.b1 = false → s.hdr.key = Key.zero) ∧
  (s.phase = .encHdr → len7 s.hdr.b1 = len7code s.hdr.len) ∧
  (s.phase = .decB0 → s.hdr = Header.zero) ∧
  (s.phase = .decB1 → s.hdr.b1 = 0 ∧ s.hdr.len = 0 ∧ s.hdr.key = Key.zero) ∧
  (s.phase = .decExt → s.hdr.len.toNat < 256 ^ s.cnt.toNat ∧ s.hdr.key = Key.zero) ∧
  (s.phase = .decKey → lengthFits s.hdr.b1 s.hdr.len ∧ maskBit s.hdr.b1 = true ∧
    ∀ b ∈ (keyBytes s.hdr.key).drop s.cnt.toNat, b = 0) ∧
  (s.phase = .payload → lengthFits s.hdr.b1 s.hdr.len)

/-- A source that has raised `in_eos` has no byte left (R53, R56). -/
abbrev EosInv (s : State) : Prop := s.inEos = true → s.inp = []

/-- The invariant of the machine. -/
abbrev Inv (s : State) : Prop :=
  BusyInv s ∧ FlagInv s ∧ CntInv s ∧ PosInv s ∧ DirInv s ∧ RecordInv s ∧ EosInv s

end Sys2Proof.Machine
end

