-- ==== Sys2Proof/Certificates/Slice0/Obligations.lean ====
section
/-! DEFINITION. The statements for the provers. Statements about `exec` give an instruction's next state in full, so that
they say at once that it completes, what it does and what it leaves alone. Statements about `step` also rest on the model's
schedule (log 1) and host program (log 2), which the spec leaves to the environment (R8). -/

open Sys2Proof Sys2Proof.Machine

/-! ### Encodings -/

/-- R83 to R85, R89, R93: decoding the word of a well-formed instruction gives it back, with every operand at every value. -/
def Obligations.DecodeOfEncodeGivesInstruction : Prop :=
  ∀ (i : Instr) (c : Carrier) (w : Word), WellFormed i → Sys2Proof.encode i = some (c, w) →
    Sys2Proof.decode c w = .ok i

/-- R83 to R85, R89, R93: an accepted word is the word of what it decodes to, but for the bits that are ignored. -/
def Obligations.EncodeOfDecodeGivesWord : Prop :=
  ∀ (c : Carrier) (w : Word) (i : Instr), Sys2Proof.decode c w = .ok i →
    WellFormed i ∧ Sys2Proof.encode i = some (c, w &&& c.significant)

/-- R98: what a word decodes to belongs to a row the word matches, and a word that matches a row (under the row's constraint
`len7 <= 125` for tier 7) decodes to an instruction of that row: the rows of one carrier do not overlap. -/
def Obligations.DecodingFollowsTableRows : Prop :=
  (∀ (c : Carrier) (w : Word) (i : Instr), Sys2Proof.decode c w = .ok i →
    i.row.carrier = c ∧ w &&& i.row.mask = i.row.pattern) ∧
  (∀ (w : Word) (i : Instr), i.row.carrier ≠ .internal → w &&& i.row.mask = i.row.pattern →
    (i.row.mask = 0x80#32 → (w &&& 0x7F#32).toNat ≤ 125) →
    ∃ j : Instr, Sys2Proof.decode i.row.carrier w = .ok j ∧ j.row = i.row)

/-- R83 to R85, R89, R93: a few words written out from the tables. -/
def Obligations.WrittenOutWordsDecode : Prop :=
  Sys2Proof.decode .ctrl 0x0000001D#32 = .ok (.mask true true true) ∧
  Sys2Proof.decode .ctrl 0x00000003#32 = .ok (.unmask false false false) ∧
  Sys2Proof.decode .hdr 0x82FD#32 = .ok (.hdr7m 0x82#8 125#7) ∧
  Sys2Proof.decode .hdr 0x8102#32 = .ok (.hdr7u 0x81#8 2#7) ∧
  Sys2Proof.decode .hdr 0x82FE#32 = .ok (.hdr16m 0x82#8) ∧
  Sys2Proof.decode .hdr 0x827E#32 = .ok (.hdr16u 0x82#8) ∧
  Sys2Proof.decode .hdr 0x82FF#32 = .ok (.hdr64m 0x82#8) ∧
  Sys2Proof.decode .hdr 0x827F#32 = .ok (.hdr64u 0x82#8) ∧
  Sys2Proof.decode .b0 0x81#32 = .ok (.text 8#4) ∧
  Sys2Proof.decode .b0 0x82#32 = .ok (.binary 8#4)

/-! ### The codec and the transform as functions -/

/-- R113, R114, R115, R116: the masked header of each tier, byte by byte. -/
def Obligations.EncodeHeaderByTier : Prop :=
  ∀ (n : DWord) (o : BitVec 4) (k : Key),
    (n.toNat ≤ 125 →
      encodeHeader n o true k =
        [0x80#8 ||| o.setWidth 8, 0x80#8 ||| n.setWidth 8, k.k0, k.k1, k.k2, k.k3]) ∧
    (125 < n.toNat → n.toNat ≤ 65535 →
      encodeHeader n o true k =
        [0x80#8 ||| o.setWidth 8, 0xFE#8, n.extractLsb' 8 8, n.extractLsb' 0 8, k.k0, k.k1, k.k2, k.k3]) ∧
    (65535 < n.toNat →
      encodeHeader n o true k =
        [0x80#8 ||| o.setWidth 8, 0xFF#8, n.extractLsb' 56 8, n.extractLsb' 48 8, n.extractLsb' 40 8,
          n.extractLsb' 32 8, n.extractLsb' 24 8, n.extractLsb' 16 8, n.extractLsb' 8 8, n.extractLsb' 0 8,
          k.k0, k.k1, k.k2, k.k3])

/-- R119: an unmasked header has the mask bit clear and no key bytes. -/
def Obligations.UnmaskedHeaderHasNoKey : Prop :=
  ∀ (n : DWord) (o : BitVec 4) (k : Key),
    encodeHeader n o true k =
        (encodeHeader n o false k).set 1 (0x80#8 ||| (len7code n).setWidth 8) ++ [k.k0, k.k1, k.k2, k.k3] ∧
    (encodeHeader n o false k)[1]? = some ((len7code n).setWidth 8) ∧
    (encodeHeader n o false k).length = (if n.toNat ≤ 125 then 2 else if n.toNat ≤ 65535 then 4 else 10)

/-- R117: the length of a masked header is 6, 8 or 14 by tier, it is `hdrlen` of its second byte, and the opcode has no
influence on it. -/
def Obligations.EncodeHeaderLength : Prop :=
  ∀ (n : DWord) (o : BitVec 4) (k : Key),
    (encodeHeader n o true k).length = (if n.toNat ≤ 125 then 6 else if n.toNat ≤ 65535 then 8 else 14) ∧
    ∃ b1, (encodeHeader n o true k)[1]? = some b1 ∧ (encodeHeader n o true k).length = hdrlen b1

/-- R120: from the header record a `MASK` loads (R152), the header bytes by index are the bytes of `ENCODE`, and there are
none beyond them. -/
def Obligations.HeaderBytesByIndexAreEncode : Prop :=
  ∀ (s : State) (i : Nat),
    hdrByte (loadHeader s).hdr i =
      (encodeHeader s.len (opc s.ctrl.opsel) (maskEnabled s) (maskKey s))[i]?

/-- R135: `DECODE` on a stream that begins with an encoded header gives back what was encoded and consumes exactly it; the
length is any 64-bit number (R118, R134). -/
def Obligations.DecodeHeaderInvertsEncodeHeader : Prop :=
  ∀ (p : Params) (n : DWord) (o : BitVec 4) (m : Bool) (k : Key) (rest : List Byte),
    decodeHeader p (encodeHeader n o m k ++ rest) =
      { hdr :=
          { b0 := 0x80#8 ||| o.setWidth 8, b1 := byteB1 m (len7code n), len := n
            key := if m then k else Key.zero }
        malformed := !p.expectedB0.contains (0x80#8 ||| o.setWidth 8)
        unmasked := !m, truncated := false, rest := rest }

/-- R127, R128, R129, R133, R134: the decoded length is the number the tier spells, whatever its value, and whether or not
the key that follows is complete. -/
def Obligations.DecodedLengthIsWhatTheTierSpells : Prop :=
  ∀ (p : Params) (b0 b1 : Byte) (rest : List Byte),
    ((len7 b1).toNat ≤ 125 →
      (decodeHeader p (b0 :: b1 :: rest)).hdr.len.toNat = (len7 b1).toNat) ∧
    (∀ e0 e1 : Byte, (len7 b1).toNat = 126 →
      (decodeHeader p (b0 :: b1 :: e0 :: e1 :: rest)).hdr.len.toNat = e0.toNat * 256 + e1.toNat) ∧
    (∀ e0 e1 e2 e3 e4 e5 e6 e7 : Byte, (len7 b1).toNat = 127 →
      (decodeHeader p (b0 :: b1 :: e0 :: e1 :: e2 :: e3 :: e4 :: e5 :: e6 :: e7 :: rest)).hdr.len.toNat =
        e0.toNat * 256 ^ 7 + e1.toNat * 256 ^ 6 + e2.toNat * 256 ^ 5 + e3.toNat * 256 ^ 4 +
          e4.toNat * 256 ^ 3 + e5.toNat * 256 ^ 2 + e6.toNat * 256 + e7.toNat)

/-- R131, R132, R86: `DECODE` fails exactly when the stream is shorter than the header its `B1` declares (or than two bytes);
on success it has consumed exactly `hdrlen(B1)` bytes, on failure all there was. -/
def Obligations.DecodeConsumesExactlyTheHeader : Prop :=
  ∀ (p : Params) (bytes : List Byte),
    ((decodeHeader p bytes).truncated = false →
      ∃ b0 b1 rest, bytes = b0 :: b1 :: rest ∧ hdrlen b1 ≤ bytes.length ∧
        (decodeHeader p bytes).rest = bytes.drop (hdrlen b1) ∧
        (decodeHeader p bytes).hdr.b0 = b0 ∧ (decodeHeader p bytes).hdr.b1 = b1) ∧
    ((decodeHeader p bytes).truncated = true →
      (decodeHeader p bytes).rest = [] ∧ ∀ b0 b1 rest, bytes = b0 :: b1 :: rest → bytes.length < hdrlen b1)

/-- R140, R141, R144: the transform of a byte, by its offset modulo 4; that applying it twice returns the byte; and that the
all-zero key is the identity. -/
def Obligations.ApplyIsXorWithRotatingKeyAndSelfInverse : Prop :=
  ∀ (b : Byte) (p : DWord) (k : Key),
    applyByte b p k = b ^^^ (([k.k0, k.k1, k.k2, k.k3] : List Byte)[p.toNat % 4]?.getD 0) ∧
    applyByte (applyByte b p k) p k = b ∧ applyByte b p ⟨0, 0, 0, 0⟩ = b

/-- R142: key bytes are applied cyclically to consecutive payload bytes, and no result depends on an earlier byte (R145);
and transforming a transformed payload at the same offset gives the payload back (R141). -/
def Obligations.TransformRotatesTheKeyAndUndoesItself : Prop :=
  ∀ (k : Key) (p : DWord) (bytes : List Byte),
    (∀ i : Nat, (transform k p bytes)[i]? =
      bytes[i]?.map (fun b => b ^^^ (([k.k0, k.k1, k.k2, k.k3] : List Byte)[(p.toNat + i) % 4]?.getD 0))) ∧
    transform k p (transform k p bytes) = bytes

/-! ### What each instruction does -/

/-- R182, R152: an accepted START with `DIR` = 0. The mode bits are stored, `MASK_EN` only if `P_UNMASKED_ENCODE`; everything
of an earlier operation is cleared; the header record holds the frame to send. -/
def Obligations.MaskStartsEncoding : Prop :=
  ∀ (o k m : Bool) (s : State), s.flags.busy = false →
    exec (.mask o k m) s = .next
      { s with
        ctrl := { dir := false, opsel := o, keyEn := k, maskEn := if s.cfg.unmaskedEncode then m else s.ctrl.maskEn }
        flags :=
          { busy := true, done := false, eTrunc := false, eEos := false, dMalformed := false, dUnmasked := false }
        phase := .encHdr, cnt := 0, pos := 0
        hdr :=
          { b0 := if o then 0x82#8 else 0x81#8
            b1 := if s.cfg.unmaskedEncode && !m then (len7code s.len).setWidth 8
              else 0x80#8 ||| (len7code s.len).setWidth 8
            len := s.len
            key :=
              if s.cfg.unmaskedEncode && !m then ⟨0, 0, 0, 0⟩
              else if k then
                ⟨s.key.extractLsb' 24 8, s.key.extractLsb' 16 8, s.key.extractLsb' 8 8, s.key.extractLsb' 0 8⟩
              else s.cfg.defaultKey } }

/-- R182, R153: an accepted START with `DIR` = 1; the header record stays all zero. -/
def Obligations.UnmaskStartsDecoding : Prop :=
  ∀ (o k m : Bool) (s : State), s.flags.busy = false →
    exec (.unmask o k m) s = .next
      { s with
        ctrl := { dir := true, opsel := o, keyEn := k, maskEn := if s.cfg.unmaskedEncode then m else s.ctrl.maskEn }
        flags :=
          { busy := true, done := false, eTrunc := false, eEos := false, dMalformed := false, dUnmasked := false }
        phase := .decB0, cnt := 0, pos := 0
        hdr := { b0 := 0, b1 := 0, len := 0, key := ⟨0, 0, 0, 0⟩ } }

/-- R183: while `BUSY` = 1 a write to the register space changes no state of the block: not a parameter, and a START is
neither taken nor queued. Only the host's program and the schedule have moved on (log 1, log 2). -/
def Obligations.WritesWhileBusyAreIgnored : Prop :=
  ∀ (s : State) (off : Nat) (v : Word) (ls : List HostLine), s.flags.busy = true →
    currentTurn s = .host → s.host = .wr off v :: ls →
    step s = .next { s with host := ls, turns := laterTurns s }

/-- R155, R156: one step of phase `ENC_HDR` emits header byte number `CNT`; the last one ends in `PAYLOAD`, or in `IDLE` with
`DONE` when the payload is empty. No input is read. -/
def Obligations.EncodeEmitsOneHeaderByte : Prop :=
  ∀ (s : State) (b : Byte), s.phase = .encHdr → hdrByte s.hdr s.cnt.toNat = some b →
    exec .encode s = .next
      (if s.cnt.toNat + 1 < hdrlen s.hdr.b1 then { s with out := s.out ++ [b], cnt := s.cnt + 1 }
      else if s.hdr.len = 0 then
        { s with
          out := s.out ++ [b], cnt := 0, pos := 0, phase := .idle
          flags := { s.flags with busy := false, done := true } }
      else { s with out := s.out ++ [b], cnt := 0, pos := 0, phase := .payload })

/-- R157, R125: phase `DEC_B0`: the byte is stored whole, and a byte outside `P_EXPECTED_B0` sets the diagnostic. -/
def Obligations.DecodeReadsFirstByte : Prop :=
  ∀ (s : State) (b : Byte) (rest : List Byte), s.phase = .decB0 → s.inp = b :: rest →
    exec .decode s = .next
      { s with
        inp := rest, hdr := { s.hdr with b0 := b }, phase := .decB1
        flags := { s.flags with dMalformed := s.flags.dMalformed || !s.cfg.expectedB0.contains b } }

/-- R158, R161, R156: phase `DEC_B1`: the second byte decides the tier, and whether a key follows. -/
def Obligations.DecodeReadsSecondByte : Prop :=
  ∀ (s : State) (b : Byte) (rest : List Byte), s.phase = .decB1 → s.inp = b :: rest →
    exec .decode s = .next
      (if 125 < (len7 b).toNat then
        { s with inp := rest, hdr := { s.hdr with b1 := b, len := 0 }, cnt := 0, phase := .decExt }
      else if b.getLsbD 7 then
        { s with
          inp := rest, hdr := { s.hdr with b1 := b, len := (len7 b).setWidth 64 }, cnt := 0, phase := .decKey }
      else if len7 b = 0 then
        { s with
          inp := rest, hdr := { s.hdr with b1 := b, len := 0, key := ⟨0, 0, 0, 0⟩ }, cnt := 0, pos := 0
          phase := .idle
          flags := { s.flags with busy := false, done := true, dUnmasked := true } }
      else
        { s with
          inp := rest, hdr := { s.hdr with b1 := b, len := (len7 b).setWidth 64, key := ⟨0, 0, 0, 0⟩ }
          cnt := 0, pos := 0, phase := .payload
          flags := { s.flags with dUnmasked := true } })

/-- R159, R161, R156: phase `DEC_EXT`: one more byte of the extended length, big-endian. -/
def Obligations.DecodeReadsLengthByte : Prop :=
  ∀ (s : State) (b : Byte) (rest : List Byte), s.phase = .decExt → s.inp = b :: rest →
    exec .decode s = .next
      (if s.cnt.toNat + 1 < extlen s.hdr.b1 then
        { s with
          inp := rest, hdr := { s.hdr with len := (s.hdr.len <<< 8) ||| b.setWidth 64 }, cnt := s.cnt + 1 }
      else if s.hdr.b1.getLsbD 7 then
        { s with
          inp := rest, hdr := { s.hdr with len := (s.hdr.len <<< 8) ||| b.setWidth 64 }, cnt := 0
          phase := .decKey }
      else if (s.hdr.len <<< 8) ||| b.setWidth 64 = 0 then
        { s with
          inp := rest, hdr := { s.hdr with len := 0, key := ⟨0, 0, 0, 0⟩ }, cnt := 0, pos := 0, phase := .idle
          flags := { s.flags with busy := false, done := true, dUnmasked := true } }
      else
        { s with
          inp := rest
          hdr := { s.hdr with len := (s.hdr.len <<< 8) ||| b.setWidth 64, key := ⟨0, 0, 0, 0⟩ }
          cnt := 0, pos := 0, phase := .payload
          flags := { s.flags with dUnmasked := true } })

/-- R160, R156: phase `DEC_KEY`: one more byte of the key, in array order. -/
def Obligations.DecodeReadsKeyByte : Prop :=
  ∀ (s : State) (b : Byte) (rest : List Byte), s.phase = .decKey → s.inp = b :: rest →
    (s.cnt = 0 → exec .decode s = .next
      { s with inp := rest, hdr := { s.hdr with key := { s.hdr.key with k0 := b } }, cnt := 1 }) ∧
    (s.cnt = 1 → exec .decode s = .next
      { s with inp := rest, hdr := { s.hdr with key := { s.hdr.key with k1 := b } }, cnt := 2 }) ∧
    (s.cnt = 2 → exec .decode s = .next
      { s with inp := rest, hdr := { s.hdr with key := { s.hdr.key with k2 := b } }, cnt := 3 }) ∧
    (s.cnt = 3 → exec .decode s = .next
      (if s.hdr.len = 0 then
        { s with
          inp := rest, hdr := { s.hdr with key := { s.hdr.key with k3 := b } }, cnt := 0, pos := 0, phase := .idle
          flags := { s.flags with busy := false, done := true } }
      else
        { s with
          inp := rest, hdr := { s.hdr with key := { s.hdr.key with k3 := b } }, cnt := 0, pos := 0
          phase := .payload }))

/-- R162, R140: one step of phase `PAYLOAD`: the byte is consumed and its transform emitted in one step; the operation is done
when `POS` has reached `H_LEN`. -/
def Obligations.ApplyTransfersOnePayloadByte : Prop :=
  ∀ (s : State) (b : Byte) (rest : List Byte), s.phase = .payload → s.inp = b :: rest →
    exec .apply s = .next
      (if s.pos + 1 = s.hdr.len then
        { s with
          inp := rest, out := s.out ++ [applyByte b s.pos s.hdr.key], pos := s.pos + 1, cnt := 0, phase := .idle
          flags := { s.flags with busy := false, done := true } }
      else
        { s with inp := rest, out := s.out ++ [applyByte b s.pos s.hdr.key], pos := s.pos + 1 })

/-- R131, R196, R200: end of input in any phase of the header is the fatal `TruncatedHeader`: the flag is set, the operation
ends, and everything else is left as it was. -/
def Obligations.EndOfInputInHeaderIsTruncatedHeader : Prop :=
  ∀ s : State, s.phase ∈ [Phase.decB0, Phase.decB1, Phase.decExt, Phase.decKey] → s.inp = [] →
    exec .decode s = .next
      { s with phase := .idle, cnt := 0, flags := { s.flags with busy := false, eTrunc := true } }

/-- R197, R200: end of input in the payload is the fatal `UnexpectedEndOfStream`; the bytes already emitted stay. -/
def Obligations.EndOfInputInPayloadIsUnexpectedEnd : Prop :=
  ∀ s : State, s.phase = .payload → s.inp = [] →
    exec .apply s = .next
      { s with phase := .idle, cnt := 0, flags := { s.flags with busy := false, eEos := true } }

/-- R83, R84, R85, R158: the header forms received in phase `DEC_B1`: a masked tier 7 form goes to the key, an unmasked one to
the payload (or to the end when it is empty) with the diagnostic, the forms of the other tiers to the extended length. -/
def Obligations.HeaderFormsAreReceived : Prop :=
  ∀ (s : State) (b0 x : Byte) (rest : List Byte) (n7 : BitVec 7), s.phase = .decB1 → s.inp = x :: rest →
    (n7.toNat ≤ 125 → exec (.hdr7m b0 n7) s = .next
      { s with
        inp := rest, hdr := { s.hdr with b1 := 0x80#8 ||| n7.setWidth 8, len := n7.setWidth 64 }, cnt := 0, phase := .decKey }) ∧
    (n7.toNat ≤ 125 → n7 ≠ 0 → exec (.hdr7u b0 n7) s = .next
      { s with
        inp := rest, hdr := { s.hdr with b1 := n7.setWidth 8, len := n7.setWidth 64, key := ⟨0, 0, 0, 0⟩ }
        cnt := 0, pos := 0, phase := .payload, flags := { s.flags with dUnmasked := true } }) ∧
    exec (.hdr7u b0 0#7) s = .next
      { s with
        inp := rest, hdr := { s.hdr with b1 := 0, len := 0, key := ⟨0, 0, 0, 0⟩ }
        cnt := 0, pos := 0, phase := .idle
        flags := { s.flags with busy := false, done := true, dUnmasked := true } } ∧
    exec (.hdr16m b0) s = .next
      { s with inp := rest, hdr := { s.hdr with b1 := 0xFE#8, len := 0 }, cnt := 0, phase := .decExt } ∧
    exec (.hdr16u b0) s = .next
      { s with inp := rest, hdr := { s.hdr with b1 := 0x7E#8, len := 0 }, cnt := 0, phase := .decExt } ∧
    exec (.hdr64m b0) s = .next
      { s with inp := rest, hdr := { s.hdr with b1 := 0xFF#8, len := 0 }, cnt := 0, phase := .decExt } ∧
    exec (.hdr64u b0) s = .next
      { s with inp := rest, hdr := { s.hdr with b1 := 0x7F#8, len := 0 }, cnt := 0, phase := .decExt }

/-- R82 to R85, R155: the header forms emitted in phase `ENC_HDR` at index 1: the second byte of the form goes out and the
step goes on to the next header byte, or, when the header is complete with it (R119), to the payload or the end (R156). -/
def Obligations.HeaderFormsAreEmitted : Prop :=
  ∀ (s : State) (b0 b : Byte) (n7 : BitVec 7) (i : Instr), s.phase = .encHdr → s.cnt = 1 →
    (i, b) ∈ [(Instr.hdr7m b0 n7, 0x80#8 ||| n7.setWidth 8), (.hdr7u b0 n7, n7.setWidth 8), (.hdr16m b0, 0xFE#8),
      (.hdr16u b0, 0x7E#8), (.hdr64m b0, 0xFF#8), (.hdr64u b0, 0x7F#8)] →
    exec i s = .next
      (if 2 < hdrlen s.hdr.b1 then { s with out := s.out ++ [b], cnt := 2 }
      else if s.hdr.len = 0 then
        { s with
          out := s.out ++ [b], cnt := 0, pos := 0, phase := .idle
          flags := { s.flags with busy := false, done := true } }
      else { s with out := s.out ++ [b], cnt := 0, pos := 0, phase := .payload })

/-- R89, R81, R157: a first byte with a known opcode received in phase `DEC_B0`; FIN and the reserved bits are stored as read
and matter to the marker test only. -/
def Obligations.FrameOpcodesAreReceived : Prop :=
  ∀ (s : State) (x : Byte) (rest : List Byte) (hi : BitVec 4), s.phase = .decB0 → s.inp = x :: rest →
    exec (.text hi) s = .next
      { s with
        inp := rest, hdr := { s.hdr with b0 := (hi.setWidth 8 <<< 4) ||| 1#8 }, phase := .decB1
        flags := { s.flags with dMalformed := s.flags.dMalformed || !s.cfg.expectedB0.contains ((hi.setWidth 8 <<< 4) ||| 1#8) } } ∧
    exec (.binary hi) s = .next
      { s with
        inp := rest, hdr := { s.hdr with b0 := (hi.setWidth 8 <<< 4) ||| 2#8 }, phase := .decB1
        flags := { s.flags with dMalformed := s.flags.dMalformed || !s.cfg.expectedB0.contains ((hi.setWidth 8 <<< 4) ||| 2#8) } }

/-- R89, R155: a first byte with a known opcode emitted in phase `ENC_HDR` at index 0. -/
def Obligations.FrameOpcodesAreEmitted : Prop :=
  ∀ (s : State) (hi : BitVec 4), s.phase = .encHdr → s.cnt = 0 →
    exec (.text hi) s = .next { s with out := s.out ++ [(hi.setWidth 8 <<< 4) ||| 1#8], cnt := 1 } ∧
    exec (.binary hi) s = .next { s with out := s.out ++ [(hi.setWidth 8 <<< 4) ||| 2#8], cnt := 1 }

/-- R154: an operation of the sequencer outside the phases its step belongs to does not happen and changes nothing, and so
does a START while `BUSY` (R183); the model's reading is log 11. -/
def Obligations.OperationsOutsideTheirPhasesChangeNothing : Prop :=
  ∀ s : State,
    (s.phase ≠ .encHdr → exec .encode s = .next s) ∧
    (s.phase ∉ [Phase.decB0, Phase.decB1, Phase.decExt, Phase.decKey] → exec .decode s = .next s) ∧
    (s.phase ≠ .payload → exec .apply s = .next s) ∧
    (∀ i : Instr, i.row.carrier = .b0 → s.phase ∉ [Phase.decB0, Phase.encHdr] → exec i s = .next s) ∧
    (∀ i : Instr, i.row.carrier = .hdr → s.phase ∉ [Phase.decB1, Phase.encHdr] → exec i s = .next s) ∧
    (∀ i : Instr, i.row.carrier = .ctrl → s.flags.busy = true → exec i s = .next s)

/-! ### Frames over all instructions -/

/-- R21: no instruction of the sequencer writes a parameter register. Nor does one write what the model holds of the host, the
schedule and the source's level beside them: the schedule (log 1), the host's program (log 2), the parameters of the
machine (log 3), the values the host has read (log 8) and `in_eos` (log 9). `IN` and `OUT` are not among them. -/
def Obligations.SequencerInstructionsKeepParameters : Prop :=
  ∀ (i : Instr) (s t : State), i.row.carrier ≠ .ctrl → exec i s = .next t →
    t.ctrl = s.ctrl ∧ t.len = s.len ∧ t.key = s.key ∧ t.host = s.host ∧ t.reads = s.reads ∧
      t.turns = s.turns ∧ t.cycle = s.cycle ∧ t.inEos = s.inEos ∧ t.cfg = s.cfg

/-- R52, R55, R154, R183: in any step `OUT` keeps every byte it has, in order, and grows by at most one, but in the step of
the line `IN = OUT`, by which the platform makes those bytes the input, all of them in order, and connects a fresh sink
(log 26). -/
def Obligations.OutputIsAppendOnly : Prop :=
  ∀ s t : State, step s = .next t →
    (fetch s ≠ .line .feedBack → ∃ l : List Byte, t.out = s.out ++ l ∧ l.length ≤ 1) ∧
    (fetch s = .line .feedBack → t.inp = s.out ∧ t.out = [])

/-- R53, R70, R154: unless the platform connects a new stream (the lines `IN = <bytes>`, log 15, and `IN = OUT`, log 26), a
step consumes at most the
next byte of `IN`, in stream order; and a step that consumes a byte outside `PAYLOAD` emits none, while in `PAYLOAD` every
byte consumed is emitted transformed in the same step (R71). -/
def Obligations.InputIsConsumedInOrder : Prop :=
  ∀ s t : State, step s = .next t → (∀ bytes, fetch s ≠ .line (.input bytes)) → fetch s ≠ .line .feedBack →
    t.inp = s.inp ∨
    ∃ b, s.inp = b :: t.inp ∧
      (s.phase = .payload → t.out = s.out ++ [applyByte b s.pos s.hdr.key] ∧ t.pos = s.pos + 1) ∧
      (s.phase ≠ .payload → t.out = s.out)

/-- R69, R70: no step emits a byte while a header is read in an `UNMASK`, nor from an idle block: `OUT` stays as it is, but in
the step of the line `IN = OUT`, by which the platform connects a fresh sink (log 26). And no step but that line and
`IN = <bytes>`, by which the platform connects another stream (log 15), changes `IN` while a header goes out in a `MASK`. -/
def Obligations.HeaderComesBeforePayload : Prop :=
  ∀ s t : State, step s = .next t →
    (s.phase ∈ [Phase.idle, Phase.decB0, Phase.decB1, Phase.decExt, Phase.decKey] →
      t.out = s.out ∨ (fetch s = .line .feedBack ∧ t.out = [])) ∧
    ((∀ bytes, fetch s ≠ .line (.input bytes)) → fetch s ≠ .line .feedBack → s.phase = .encHdr → t.inp = s.inp)

/-- R30: `DONE` and the event flags are sticky: no instruction but an accepted START clears one. -/
def Obligations.EventFlagsAreSticky : Prop :=
  ∀ (i : Instr) (s t : State) (e : ErrKind), exec i s = .next t → (i.row.carrier = .ctrl → s.flags.busy = true) →
    (flagOf e s.flags = true → flagOf e t.flags = true) ∧ (s.flags.done = true → t.flags.done = true)

/-- R205: no step sets two event flags, since no two events are raised in the same step. -/
def Obligations.AtMostOneEventPerStep : Prop :=
  ∀ (s t : State) (e f : ErrKind), step s = .next t →
    flagOf e s.flags = false → flagOf e t.flags = true →
    flagOf f s.flags = false → flagOf f t.flags = true → e = f

/-- R163: the complete phase graph: whatever a sequencer instruction does, it goes along one of its arrows or stays. -/
def Obligations.PhaseGraphIsComplete : Prop :=
  ∀ (i : Instr) (s t : State), i.row.carrier ≠ .ctrl → exec i s = .next t → t.phase ≠ s.phase →
    (s.phase, t.phase) ∈
      [(Phase.encHdr, Phase.payload), (.encHdr, .idle), (.decB0, .decB1), (.decB0, .idle),
        (.decB1, .decExt), (.decB1, .decKey), (.decB1, .payload), (.decB1, .idle),
        (.decExt, .decKey), (.decExt, .payload), (.decExt, .idle),
        (.decKey, .payload), (.decKey, .idle), (.payload, .idle)]

/-! ### The register space and the host -/

/-- R22 to R25, R27, R28, R181, R189: what every offset reads as, the reserved bits included; an offset that is in no row of
the map reads 0. Of `STATUS`, offset 0x04, it says that the word is built of the flags, `PHASE` and `CNT` alone; its bits one
by one are in `StatusBitsAreWhereTheyBelong`. -/
def Obligations.RegisterReadsFollowTheMap : Prop :=
  ∀ s : State,
    ((regRead 0x00 s).extractLsb' 0 1 = 0 ∧ (regRead 0x00 s).getLsbD 1 = s.ctrl.dir ∧
      (regRead 0x00 s).getLsbD 2 = s.ctrl.opsel ∧ (regRead 0x00 s).getLsbD 3 = s.ctrl.keyEn ∧
      (regRead 0x00 s).getLsbD 4 = (s.ctrl.maskEn || !s.cfg.unmaskedEncode) ∧
      (regRead 0x00 s).extractLsb' 5 27 = 0) ∧
    (∀ t : State, t.flags = s.flags → t.phase = s.phase → t.cnt = s.cnt → regRead 0x04 t = regRead 0x04 s) ∧
    regRead 0x08 s = s.len.setWidth 32 ∧ regRead 0x0C s = (s.len >>> 32).setWidth 32 ∧
    regRead 0x10 s = s.key ∧
    ((regRead 0x14 s).extractLsb' 0 8 = s.hdr.b0 ∧ (regRead 0x14 s).extractLsb' 8 8 = s.hdr.b1 ∧
      (regRead 0x14 s).extractLsb' 16 16 = 0) ∧
    regRead 0x18 s = s.hdr.len.setWidth 32 ∧ regRead 0x1C s = (s.hdr.len >>> 32).setWidth 32 ∧
    ((regRead 0x20 s).extractLsb' 24 8 = s.hdr.key.k0 ∧ (regRead 0x20 s).extractLsb' 16 8 = s.hdr.key.k1 ∧
      (regRead 0x20 s).extractLsb' 8 8 = s.hdr.key.k2 ∧ (regRead 0x20 s).extractLsb' 0 8 = s.hdr.key.k3) ∧
    regRead 0x24 s = s.pos.setWidth 32 ∧ regRead 0x28 s = (s.pos >>> 32).setWidth 32 ∧
    ∀ off : Nat, off % 4 ≠ 0 ∨ 0x2C ≤ off → regRead off s = 0

/-- R26, R29: every bit of `STATUS`, and the three wires that mirror bits of it (R35). -/
def Obligations.StatusBitsAreWhereTheyBelong : Prop :=
  ∀ s : State,
    (regRead 0x04 s).getLsbD 0 = s.flags.busy ∧ (regRead 0x04 s).getLsbD 1 = s.flags.done ∧
    (regRead 0x04 s).getLsbD 2 = (s.flags.eTrunc || s.flags.eEos) ∧
    (regRead 0x04 s).getLsbD 3 = (s.flags.dMalformed || s.flags.dUnmasked) ∧
    (regRead 0x04 s).extractLsb' 4 4 = 0 ∧
    (regRead 0x04 s).getLsbD 8 = s.flags.eTrunc ∧ (regRead 0x04 s).getLsbD 9 = s.flags.eEos ∧
    (regRead 0x04 s).getLsbD 10 = s.flags.dMalformed ∧ (regRead 0x04 s).getLsbD 11 = s.flags.dUnmasked ∧
    (regRead 0x04 s).extractLsb' 12 4 = 0 ∧
    (regRead 0x04 s).extractLsb' 16 3 =
      (match s.phase with
        | .idle => 0#3 | .encHdr => 1#3 | .decB0 => 2#3 | .decB1 => 3#3 | .decExt => 4#3 | .decKey => 5#3
        | .payload => 6#3) ∧
    (regRead 0x04 s).getLsbD 19 = false ∧ (regRead 0x04 s).extractLsb' 20 4 = s.cnt ∧
    (regRead 0x04 s).extractLsb' 24 8 = 0 ∧
    busyWire s = (regRead 0x04 s).getLsbD 0 ∧ doneWire s = (regRead 0x04 s).getLsbD 1 ∧
    errorWire s = (regRead 0x04 s).getLsbD 2

/-- R184, R185, R186, R187, R189: the step of a register write that starts nothing, while `BUSY` = 0, at every offset: a value
without START written to `CTRL`, a half of `LEN`, `KEY`, and the read-only and unmapped offsets, which ignore it. The host's
program and the schedule have moved on (log 1, log 2). -/
def Obligations.RegisterWritesWhileIdle : Prop :=
  ∀ (s : State) (off : Nat) (v : Word) (ls : List HostLine), s.flags.busy = false →
    currentTurn s = .host → s.host = .wr off v :: ls →
    (off = 0x00 → v.getLsbD 0 = false → step s = .next
      { s with
        host := ls, turns := laterTurns s
        ctrl :=
          { dir := v.getLsbD 1, opsel := v.getLsbD 2, keyEn := v.getLsbD 3
            maskEn := if s.cfg.unmaskedEncode then v.getLsbD 4 else s.ctrl.maskEn } }) ∧
    (off = 0x08 → step s = .next
      { s with host := ls, turns := laterTurns s, len := ((s.len >>> 32) <<< 32) ||| v.setWidth 64 }) ∧
    (off = 0x0C → step s = .next
      { s with host := ls, turns := laterTurns s, len := (v.setWidth 64 <<< 32) ||| (s.len &&& 0xFFFFFFFF#64) }) ∧
    (off = 0x10 → step s = .next { s with host := ls, turns := laterTurns s, key := v }) ∧
    (off ∉ [0x00, 0x08, 0x0C, 0x10] → step s = .next { s with host := ls, turns := laterTurns s })

/-- R182, R184 to R186, R23 to R25: after the step in which the host writes a parameter register while `BUSY` = 0, the register
reads back what was written, and the other half of `LEN` what it read before; of `CTRL` only the bits that are stored, by a
START as well, START reading 0 and `MASK_EN` reading 1 unless `P_UNMASKED_ENCODE` (log 1, log 2). -/
def Obligations.ParametersReadBack : Prop :=
  ∀ (s : State) (off : Nat) (v : Word) (ls : List HostLine), s.flags.busy = false →
    currentTurn s = .host → s.host = .wr off v :: ls →
    ∃ t, step s = .next t ∧
      (off = 0x08 → regRead 0x08 t = v ∧ regRead 0x0C t = regRead 0x0C s) ∧
      (off = 0x0C → regRead 0x0C t = v ∧ regRead 0x08 t = regRead 0x08 s) ∧
      (off = 0x10 → regRead 0x10 t = v) ∧
      (off = 0x00 → regRead 0x00 t =
        (if s.cfg.unmaskedEncode then v &&& 0x1E#32 else (v &&& 0x0E#32) ||| 0x10#32))

/-- R94, R93: every value written to `CTRL` is `MASK`, `UNMASK` or a parameter update, by its two low bits, and none traps. -/
def Obligations.EveryControlValueIsAccepted : Prop :=
  ∀ (s : State) (v : Word) (ls : List HostLine), currentTurn s = .host → s.host = .wr 0x00 v :: ls →
    (v.getLsbD 0 = true → v.getLsbD 1 = false →
      fetch s = .run (.mask (v.getLsbD 2) (v.getLsbD 3) (v.getLsbD 4))) ∧
    (v.getLsbD 0 = true → v.getLsbD 1 = true →
      fetch s = .run (.unmask (v.getLsbD 2) (v.getLsbD 3) (v.getLsbD 4))) ∧
    (v.getLsbD 0 = false → step s = .next (regWrite 0x00 v { s with host := ls, turns := laterTurns s })) ∧
    ∃ t, step s = .next t

/-- R181, R64, R96: a register read gives the host the register's value and changes nothing of the block or the streams; the
model keeps the value in `reads` (log 8). `WAIT` reads `STATUS` and stays where it is exactly while `BUSY` reads 1 (log 2). -/
def Obligations.RegisterReadHasNoSideEffectAndWaitPollsBusy : Prop :=
  ∀ (s : State) (ls : List HostLine), currentTurn s = .host →
    (∀ off : Nat, s.host = .rd off :: ls →
      step s = .next { s with host := ls, turns := laterTurns s, reads := s.reads ++ [regRead off s] }) ∧
    (s.host = .wait :: ls →
      step s = .next
        { s with
          host := if s.flags.busy then .wait :: ls else ls
          turns := laterTurns s, reads := s.reads ++ [regRead 0x04 s] })

/-- R220, R221, R36: reset, at any time, gives every piece of the block's state its reset value; what was consumed and
emitted stays so (the reset line of the host's program: log 23). -/
def Obligations.ResetSetsTheBlockAndKeepsTheStreams : Prop :=
  ∀ (s : State) (ls : List HostLine), currentTurn s = .host → s.host = .reset :: ls →
    step s = .next
      { s with
        host := ls, turns := laterTurns s
        ctrl := { dir := false, opsel := true, keyEn := false, maskEn := true }
        len := 0, key := 0, phase := .idle, cnt := 0, pos := 0
        flags :=
          { busy := false, done := false, eTrunc := false, eEos := false, dMalformed := false, dUnmasked := false }
        hdr := { b0 := 0, b1 := 0, len := 0, key := ⟨0, 0, 0, 0⟩ } }

/-- R36: every piece of the block's state after reset; so `CTRL` reads 0x14 and every other register 0; and a reset of any
state puts the block there and leaves `IN` and `OUT` alone. -/
def Obligations.ResetValues : Prop :=
  State.reset.ctrl = { dir := false, opsel := true, keyEn := false, maskEn := true } ∧
  State.reset.len = 0 ∧ State.reset.key = 0 ∧
  State.reset.flags =
    { busy := false, done := false, eTrunc := false, eEos := false, dMalformed := false, dUnmasked := false } ∧
  State.reset.phase = .idle ∧ State.reset.cnt = 0 ∧ State.reset.pos = 0 ∧
  State.reset.hdr = { b0 := 0, b1 := 0, len := 0, key := ⟨0, 0, 0, 0⟩ } ∧
  regRead 0x00 State.reset = 0x00000014#32 ∧ (∀ off : Nat, off ≠ 0x00 → regRead off State.reset = 0) ∧
  ∀ s : State, blockReset s =
    { State.reset with
      inp := s.inp, inEos := s.inEos, out := s.out, host := s.host, reads := s.reads, turns := s.turns
      cycle := s.cycle, cfg := s.cfg }

/-! ### Steps -/

/-- R93, R98, R154: when the host writes a command, or the byte that is about to pass decodes as a row of the table, the step
is that instruction, on the state in which the turn has been taken (log 1, log 10). -/
def Obligations.StepRunsTheDecodedInstruction : Prop :=
  ∀ (s : State) (i : Instr),
    (∀ (v : Word) (ls : List HostLine), currentTurn s = .host → s.host = .wr 0x00 v :: ls →
      Sys2Proof.decode .ctrl v = .ok i → step s = exec i { s with host := ls, turns := laterTurns s }) ∧
    (∀ (src snk : Bool) (b : Byte) (rest : List Byte), currentTurn s = .seq src snk → (src || s.inEos) = true →
      s.inp = b :: rest → s.phase = .decB0 → Sys2Proof.decode .b0 (b.setWidth 32) = .ok i →
      step s = exec i { s with turns := laterTurns s }) ∧
    (∀ (src snk : Bool) (b : Byte) (rest : List Byte), currentTurn s = .seq src snk → (src || s.inEos) = true →
      s.inp = b :: rest → s.phase = .decB1 → Sys2Proof.decode .hdr (hdrWord s.hdr.b0 b) = .ok i →
      step s = exec i { s with turns := laterTurns s }) ∧
    (∀ src : Bool, currentTurn s = .seq src true → s.phase = .encHdr → s.cnt = 0 →
      Sys2Proof.decode .b0 (s.hdr.b0.setWidth 32) = .ok i →
      step s = exec i { s with turns := laterTurns s, inEos := s.inEos || (src && s.inp.isEmpty) }) ∧
    (∀ src : Bool, currentTurn s = .seq src true → s.phase = .encHdr → s.cnt = 1 →
      Sys2Proof.decode .hdr (hdrWord s.hdr.b0 s.hdr.b1) = .ok i →
      step s = exec i { s with turns := laterTurns s, inEos := s.inEos || (src && s.inp.isEmpty) })

/-- R154 to R162: an enabled step of the sequencer is the codec or transform operation of its phase, also where it is run
as a frame opcode or a header form (log 10). -/
def Obligations.SequencerStepIsTheOperationOfItsPhase : Prop :=
  ∀ (s : State) (src snk : Bool), currentTurn s = .seq src snk →
    (s.phase = .encHdr → snk = true → step s = exec .encode (advance s)) ∧
    (s.phase ∈ [Phase.decB0, Phase.decB1, Phase.decExt, Phase.decKey] → (src || s.inEos) = true →
      step s = exec .decode (advance s)) ∧
    (s.phase = .payload → (src || s.inEos) = true → (s.inp = [] ∨ snk = true) →
      step s = exec .apply (advance s))

/-- R154, R171, R234: a step that is not enabled does not happen. First: an idle sequencer has no step, and an operation that
waits on source or sink stays as it is; only the schedule moves on, and a willing source that is empty has raised `in_eos`.
Second: under a schedule in which every turn of the sequencer leaves it waiting, a running operation waits for ever, whatever
the host reads or writes, without an error or a timeout, as long as the host's program holds no reset and no line that
connects a stream (log 1, log 2, log 9, log 15, log 26). -/
def Obligations.DisabledStepsChangeNothing : Prop :=
  (∀ (s : State) (src snk : Bool), currentTurn s = .seq src snk → s.phase = .idle ∨ Waits s src snk →
    step s = .next { s with turns := laterTurns s, inEos := s.inEos || (src && s.inp.isEmpty) }) ∧
  (∀ s : State, s.flags.busy = true → s.cycle ≠ [] →
    (∀ src snk, .seq src snk ∈ s.turns ++ s.cycle → Waits s src snk) →
    (∀ l ∈ s.host, l ≠ .reset ∧ l ≠ .feedBack ∧ ∀ bytes, l ≠ .input bytes) →
    ∀ n : Nat, ∃ t, runSteps n s = .next t ∧
      t = { s with turns := t.turns, host := t.host, reads := t.reads, inEos := t.inEos })

/-- R56: the port levels and the steps agree: on a turn of the sequencer a step changes something of the block or the
streams only when the ports take an item; the input loses a byte exactly when one is taken, and the output gains exactly the
byte the port shows (log 20). -/
def Obligations.PortsAgreeWithSteps : Prop :=
  ∀ (s t : State) (src snk : Bool), currentTurn s = .seq src snk → step s = .next t →
    ((ports s src snk).inTaken = false → (ports s src snk).outTaken = false →
      t = { s with turns := laterTurns s, inEos := s.inEos || (src && s.inp.isEmpty) }) ∧
    t.inp = (if (ports s src snk).inTaken && (ports s src snk).inValid then s.inp.tail else s.inp) ∧
    t.out = s.out ++ (if (ports s src snk).outTaken then (ports s src snk).outData.toList else []) ∧
    ¬((ports s src snk).inValid = true ∧ (ports s src snk).inEos = true)

/-! ### Noninterference -/

/-- R74, R143, R151: a running operation does not see the parameter registers: a step of the sequencer on a state with other
values of `CTRL`, `LEN` and `KEY` does the same to everything else. -/
def Obligations.RunningOperationIgnoresParameters : Prop :=
  ∀ (s t : State) (src snk : Bool) (c : Ctrl) (n : DWord) (k : Word), currentTurn s = .seq src snk →
    step s = .next t →
    step { s with ctrl := c, len := n, key := k } = .next { t with ctrl := c, len := n, key := k }

/-- R33: nothing carries over from one operation to the next but the parameter registers: an accepted START leaves the same
state whatever the earlier operation left in the flags, the header record and the sequencing state. -/
def Obligations.StartForgetsTheLastOperation : Prop :=
  ∀ (s : State) (i : Instr) (f : Flags) (h : Header) (p : DWord) (c : BitVec 4) (ph : Phase),
    i.row.carrier = .ctrl → s.flags.busy = false → f.busy = false →
    exec i { s with flags := f, hdr := h, pos := p, cnt := c, phase := ph } = exec i s

/-- R201, R198: the marker test and its diagnostic never change what is consumed, emitted or decided: with another
`P_EXPECTED_B0` and another `D_MALFORMED` a sequencer instruction does the same to everything else. -/
def Obligations.MarkerDiagnosticChangesNothingElse : Prop :=
  ∀ (i : Instr) (s t : State) (e : List Byte) (d : Bool), i.row.carrier ≠ .ctrl → exec i s = .next t →
    ∃ d' : Bool,
      exec i { s with cfg := { s.cfg with expectedB0 := e }, flags := { s.flags with dMalformed := d } } =
        .next { t with cfg := { s.cfg with expectedB0 := e }, flags := { t.flags with dMalformed := d' } }

/-! ### Invariants and safety -/

/-- R26, R28, R29, R32, R191, R205: every step keeps the invariant of the machine. -/
def Obligations.StepKeepsTheInvariant : Prop :=
  ∀ s t : State, Inv s → step s = .next t → Inv t

/-- R36: the state after reset meets the invariant. -/
def Obligations.ResetMeetsTheInvariant : Prop := Inv State.reset

/-- R195: the block never faults: from a state that meets the invariant a step is a next state, unless the platform replaces
the input stream of a running operation, which the spec refuses (U13, log 15). And what the two lines that do so do: on an
idle block `IN = <bytes>` connects the new stream, with `in_eos` withdrawn, and `IN = OUT` connects what the sink has received
and a fresh sink (R97); nothing else changes but the host's program and the schedule (log 1, log 2, log 9, log 15, log 26). On
a busy block both are refused. -/
def Obligations.StepsDoNotStop : Prop :=
  (∀ s : State, Inv s → (∃ t, step s = .next t) ∨
    (s.flags.busy = true ∧ ((∃ bytes, fetch s = .line (.input bytes)) ∨ fetch s = .line .feedBack) ∧
      step s = .refused .inputReplacedWhileBusy)) ∧
  (∀ (s : State) (ls : List HostLine), currentTurn s = .host →
    (∀ bytes : List Byte, s.host = .input bytes :: ls →
      (s.flags.busy = false →
        step s = .next { s with host := ls, turns := laterTurns s, inp := bytes, inEos := false }) ∧
      (s.flags.busy = true → step s = .refused .inputReplacedWhileBusy)) ∧
    (s.host = .feedBack :: ls →
      (s.flags.busy = false →
        step s = .next { s with host := ls, turns := laterTurns s, inp := s.out, out := [], inEos := false }) ∧
      (s.flags.busy = true → step s = .refused .inputReplacedWhileBusy)))

/-- R120, R160: where an ill-formed `CNT` names no byte the sequencer stops (log 12); such a state does not meet the
invariant. -/
def Obligations.IndexFaultsOnlyOutOfRange : Prop :=
  ∀ s : State,
    (s.phase = .encHdr → (exec .encode s = .fault .headerIndexOutOfRange ↔ hdrlen s.hdr.b1 ≤ s.cnt.toNat)) ∧
    (s.phase = .decKey → s.inp ≠ [] →
      (exec .decode s = .fault .keyIndexOutOfRange ↔ 4 ≤ s.cnt.toNat)) ∧
    (s.phase = .encHdr → hdrlen s.hdr.b1 ≤ s.cnt.toNat → ¬Inv s) ∧
    (s.phase = .decKey → 4 ≤ s.cnt.toNat → ¬Inv s)

/-! ### Whole operations -/

/-- R150, R168: `MASK` from an idle block, under any schedule of the sequencer, ends, when it ends, in the state the
whole-function statement gives: header, transformed payload, what is left of the input, flags, header record and `POS`. A
short input is included (R167). -/
def Obligations.MaskRunsEndAsTheWholeFunction : Prop :=
  ∀ (o k m : Bool) (s s1 t : State) (ts : List Turn), s.flags.busy = false → (∀ u ∈ ts, seqTurn u = true) →
    s.turns = ts → exec (.mask o k m) s = .next s1 → runSteps ts.length s1 = .next t → t.phase = .idle →
    t = { maskWhole o k m s with inEos := t.inEos, turns := [] }

/-- R151, R168: the same of `UNMASK`: truncated headers, diagnostics, short payloads and bytes after the frame included. -/
def Obligations.UnmaskRunsEndAsTheWholeFunction : Prop :=
  ∀ (o k m : Bool) (s s1 t : State) (ts : List Turn), s.flags.busy = false → (∀ u ∈ ts, seqTurn u = true) →
    s.turns = ts → exec (.unmask o k m) s = .next s1 → runSteps ts.length s1 = .next t → t.phase = .idle →
    t = { unmaskWhole o k m s with inEos := t.inEos, turns := [] }

/-- R168: with source and sink willing at every turn (`AlwaysWilling`, log 1) a successful operation takes exactly
`hdrlen(H_B1) + H_LEN` steps after its START, and is `DONE` at the end of them and not before. -/
def Obligations.SuccessfulOperationStepCount : Prop :=
  (∀ (o k m : Bool) (s s1 : State), s.flags.busy = false → AlwaysWilling s → s.len.toNat ≤ s.inp.length →
    exec (.mask o k m) s = .next s1 →
    (∃ t, runSteps (hdrlen s1.hdr.b1 + s.len.toNat) s1 = .next t ∧ t.flags.done = true) ∧
    ∀ j < hdrlen s1.hdr.b1 + s.len.toNat, ∃ u, runSteps j s1 = .next u ∧ u.flags.busy = true) ∧
  (∀ (o k m : Bool) (s s1 : State), s.flags.busy = false → AlwaysWilling s →
    (decodeHeader s.cfg s.inp).truncated = false →
    (decodeHeader s.cfg s.inp).hdr.len.toNat ≤ (decodeHeader s.cfg s.inp).rest.length →
    exec (.unmask o k m) s = .next s1 →
    (∃ t, runSteps (hdrlen (decodeHeader s.cfg s.inp).hdr.b1 + (decodeHeader s.cfg s.inp).hdr.len.toNat) s1 = .next t ∧
      t.flags.done = true) ∧
    ∀ j < hdrlen (decodeHeader s.cfg s.inp).hdr.b1 + (decodeHeader s.cfg s.inp).hdr.len.toNat,
      ∃ u, runSteps j s1 = .next u ∧ u.flags.busy = true)

/-- R169: round trip on the machine. Where `P_EXPECTED_B0` holds the two bytes an encoder emits (log 5), `MASK` of a payload with
`LEN` its length, and after it `UNMASK` of what came out, gives the payload back; both end with `DONE`, without an error and
without a diagnostic but the one an unmasked frame raises in the `UNMASK`. Source and sink are willing at every turn
(`AlwaysWilling`, log 1), and the second stream is connected by the platform (log 15). -/
def Obligations.UnmaskOfMaskGivesThePayload : Prop :=
  ∀ (o k m o' k' m' : Bool) (s s1 t u1 u : State) (n1 n2 : Nat),
    s.flags.busy = false → AlwaysWilling s → s.out = [] → s.len.toNat = s.inp.length →
    0x81#8 ∈ s.cfg.expectedB0 → 0x82#8 ∈ s.cfg.expectedB0 →
    exec (.mask o k m) s = .next s1 → runSteps n1 s1 = .next t → n1 = hdrlen s1.hdr.b1 + s.len.toNat →
    exec (.unmask o' k' m') { t with inp := t.out, out := [], inEos := false } = .next u1 →
    runSteps n2 u1 = .next u → n2 = n1 →
    (t.inp = [] ∧ t.flags.done = true ∧ t.flags.busy = false ∧ t.flags.eTrunc = false ∧ t.flags.eEos = false ∧
      t.flags.dMalformed = false ∧ t.flags.dUnmasked = false) ∧
    u.out = s.inp ∧ u.inp = [] ∧ u.flags.done = true ∧ u.flags.busy = false ∧
      u.flags.eTrunc = false ∧ u.flags.eEos = false ∧ u.flags.dMalformed = false ∧
      u.flags.dUnmasked = (s.cfg.unmaskedEncode && !m) ∧
      u.hdr.len = s.len ∧ u.hdr.key = s1.hdr.key ∧ u.pos = s.len

/-- R171, R234: under a schedule that meets the liveness assumptions (`EventuallyWilling`, log 1) every operation ends: its
progress takes at most a header of 14 bytes, the bytes that are left and one end-of-stream, and each round of the
cycle has a turn that makes progress. That without the assumptions it may wait for ever is the second clause of
`DisabledStepsChangeNothing`. -/
def Obligations.OperationsTerminate : Prop :=
  ∀ s : State, Inv s → s.flags.busy = true → EventuallyWilling s →
    ∃ (n : Nat) (t : State), n ≤ s.turns.length + (s.inp.length + 15) * max 1 s.cycle.length ∧
      runSteps n s = .next t ∧ t.flags.busy = false ∧
      (t.flags.done = true ∨ t.flags.eTrunc = true ∨ t.flags.eEos = true)
end

