-- ==== Sys2Proof/Laws/State.lean ====
section
/-! SUPPORT. What each update of the state does to each field, so that no later proof unfolds a record update: one lemma
per field and update. Fields whose new value depends on a case are left to Laws/Ops.lean. -/

namespace Sys2Proof.Machine

@[simp] theorem outWrite_ctrl (b : Byte) (s : State) : (outWrite b s).ctrl = s.ctrl := rfl
@[simp] theorem outWrite_len (b : Byte) (s : State) : (outWrite b s).len = s.len := rfl
@[simp] theorem outWrite_key (b : Byte) (s : State) : (outWrite b s).key = s.key := rfl
@[simp] theorem outWrite_flags (b : Byte) (s : State) : (outWrite b s).flags = s.flags := rfl
@[simp] theorem outWrite_phase (b : Byte) (s : State) : (outWrite b s).phase = s.phase := rfl
@[simp] theorem outWrite_cnt (b : Byte) (s : State) : (outWrite b s).cnt = s.cnt := rfl
@[simp] theorem outWrite_pos (b : Byte) (s : State) : (outWrite b s).pos = s.pos := rfl
@[simp] theorem outWrite_hdr (b : Byte) (s : State) : (outWrite b s).hdr = s.hdr := rfl
@[simp] theorem outWrite_inp (b : Byte) (s : State) : (outWrite b s).inp = s.inp := rfl
@[simp] theorem outWrite_inEos (b : Byte) (s : State) : (outWrite b s).inEos = s.inEos := rfl
@[simp] theorem outWrite_out (b : Byte) (s : State) : (outWrite b s).out = s.out ++ [b] := rfl
@[simp] theorem outWrite_host (b : Byte) (s : State) : (outWrite b s).host = s.host := rfl
@[simp] theorem outWrite_reads (b : Byte) (s : State) : (outWrite b s).reads = s.reads := rfl
@[simp] theorem outWrite_turns (b : Byte) (s : State) : (outWrite b s).turns = s.turns := rfl
@[simp] theorem outWrite_cycle (b : Byte) (s : State) : (outWrite b s).cycle = s.cycle := rfl
@[simp] theorem outWrite_cfg (b : Byte) (s : State) : (outWrite b s).cfg = s.cfg := rfl

@[simp] theorem fatalExit_ctrl (s : State) : (fatalExit s).ctrl = s.ctrl := rfl
@[simp] theorem fatalExit_len (s : State) : (fatalExit s).len = s.len := rfl
@[simp] theorem fatalExit_key (s : State) : (fatalExit s).key = s.key := rfl
@[simp] theorem fatalExit_flags (s : State) : (fatalExit s).flags = { s.flags with busy := false } := rfl
@[simp] theorem fatalExit_phase (s : State) : (fatalExit s).phase = .idle := rfl
@[simp] theorem fatalExit_cnt (s : State) : (fatalExit s).cnt = 0 := rfl
@[simp] theorem fatalExit_pos (s : State) : (fatalExit s).pos = s.pos := rfl
@[simp] theorem fatalExit_hdr (s : State) : (fatalExit s).hdr = s.hdr := rfl
@[simp] theorem fatalExit_inp (s : State) : (fatalExit s).inp = s.inp := rfl
@[simp] theorem fatalExit_inEos (s : State) : (fatalExit s).inEos = s.inEos := rfl
@[simp] theorem fatalExit_out (s : State) : (fatalExit s).out = s.out := rfl
@[simp] theorem fatalExit_host (s : State) : (fatalExit s).host = s.host := rfl
@[simp] theorem fatalExit_reads (s : State) : (fatalExit s).reads = s.reads := rfl
@[simp] theorem fatalExit_turns (s : State) : (fatalExit s).turns = s.turns := rfl
@[simp] theorem fatalExit_cycle (s : State) : (fatalExit s).cycle = s.cycle := rfl
@[simp] theorem fatalExit_cfg (s : State) : (fatalExit s).cfg = s.cfg := rfl

@[simp] theorem finish_ctrl (s : State) : (finish s).ctrl = s.ctrl := rfl
@[simp] theorem finish_len (s : State) : (finish s).len = s.len := rfl
@[simp] theorem finish_key (s : State) : (finish s).key = s.key := rfl
@[simp] theorem finish_flags (s : State) : (finish s).flags = { s.flags with busy := false, done := true } := rfl
@[simp] theorem finish_phase (s : State) : (finish s).phase = .idle := rfl
@[simp] theorem finish_cnt (s : State) : (finish s).cnt = 0 := rfl
@[simp] theorem finish_pos (s : State) : (finish s).pos = s.pos := rfl
@[simp] theorem finish_hdr (s : State) : (finish s).hdr = s.hdr := rfl
@[simp] theorem finish_inp (s : State) : (finish s).inp = s.inp := rfl
@[simp] theorem finish_inEos (s : State) : (finish s).inEos = s.inEos := rfl
@[simp] theorem finish_out (s : State) : (finish s).out = s.out := rfl
@[simp] theorem finish_host (s : State) : (finish s).host = s.host := rfl
@[simp] theorem finish_reads (s : State) : (finish s).reads = s.reads := rfl
@[simp] theorem finish_turns (s : State) : (finish s).turns = s.turns := rfl
@[simp] theorem finish_cycle (s : State) : (finish s).cycle = s.cycle := rfl
@[simp] theorem finish_cfg (s : State) : (finish s).cfg = s.cfg := rfl

@[simp] theorem storeMode_ctrl (d o k m : Bool) (s : State) :
    (storeMode d o k m s).ctrl = { dir := d, opsel := o, keyEn := k, maskEn := if s.cfg.unmaskedEncode then m else s.ctrl.maskEn } :=
  rfl
@[simp] theorem storeMode_len (d o k m : Bool) (s : State) : (storeMode d o k m s).len = s.len := rfl
@[simp] theorem storeMode_key (d o k m : Bool) (s : State) : (storeMode d o k m s).key = s.key := rfl
@[simp] theorem storeMode_flags (d o k m : Bool) (s : State) : (storeMode d o k m s).flags = s.flags := rfl
@[simp] theorem storeMode_phase (d o k m : Bool) (s : State) : (storeMode d o k m s).phase = s.phase := rfl
@[simp] theorem storeMode_cnt (d o k m : Bool) (s : State) : (storeMode d o k m s).cnt = s.cnt := rfl
@[simp] theorem storeMode_pos (d o k m : Bool) (s : State) : (storeMode d o k m s).pos = s.pos := rfl
@[simp] theorem storeMode_hdr (d o k m : Bool) (s : State) : (storeMode d o k m s).hdr = s.hdr := rfl
@[simp] theorem storeMode_inp (d o k m : Bool) (s : State) : (storeMode d o k m s).inp = s.inp := rfl
@[simp] theorem storeMode_inEos (d o k m : Bool) (s : State) : (storeMode d o k m s).inEos = s.inEos := rfl
@[simp] theorem storeMode_out (d o k m : Bool) (s : State) : (storeMode d o k m s).out = s.out := rfl
@[simp] theorem storeMode_host (d o k m : Bool) (s : State) : (storeMode d o k m s).host = s.host := rfl
@[simp] theorem storeMode_reads (d o k m : Bool) (s : State) : (storeMode d o k m s).reads = s.reads := rfl
@[simp] theorem storeMode_turns (d o k m : Bool) (s : State) : (storeMode d o k m s).turns = s.turns := rfl
@[simp] theorem storeMode_cycle (d o k m : Bool) (s : State) : (storeMode d o k m s).cycle = s.cycle := rfl
@[simp] theorem storeMode_cfg (d o k m : Bool) (s : State) : (storeMode d o k m s).cfg = s.cfg := rfl

@[simp] theorem startClear_ctrl (s : State) : (startClear s).ctrl = s.ctrl := rfl
@[simp] theorem startClear_len (s : State) : (startClear s).len = s.len := rfl
@[simp] theorem startClear_key (s : State) : (startClear s).key = s.key := rfl
@[simp] theorem startClear_flags (s : State) : (startClear s).flags = { Flags.zero with busy := true } := rfl
@[simp] theorem startClear_phase (s : State) : (startClear s).phase = s.phase := rfl
@[simp] theorem startClear_cnt (s : State) : (startClear s).cnt = 0 := rfl
@[simp] theorem startClear_pos (s : State) : (startClear s).pos = 0 := rfl
@[simp] theorem startClear_hdr (s : State) : (startClear s).hdr = Header.zero := rfl
@[simp] theorem startClear_inp (s : State) : (startClear s).inp = s.inp := rfl
@[simp] theorem startClear_inEos (s : State) : (startClear s).inEos = s.inEos := rfl
@[simp] theorem startClear_out (s : State) : (startClear s).out = s.out := rfl
@[simp] theorem startClear_host (s : State) : (startClear s).host = s.host := rfl
@[simp] theorem startClear_reads (s : State) : (startClear s).reads = s.reads := rfl
@[simp] theorem startClear_turns (s : State) : (startClear s).turns = s.turns := rfl
@[simp] theorem startClear_cycle (s : State) : (startClear s).cycle = s.cycle := rfl
@[simp] theorem startClear_cfg (s : State) : (startClear s).cfg = s.cfg := rfl

@[simp] theorem loadHeader_ctrl (s : State) : (loadHeader s).ctrl = s.ctrl := rfl
@[simp] theorem loadHeader_len (s : State) : (loadHeader s).len = s.len := rfl
@[simp] theorem loadHeader_key (s : State) : (loadHeader s).key = s.key := rfl
@[simp] theorem loadHeader_flags (s : State) : (loadHeader s).flags = s.flags := rfl
@[simp] theorem loadHeader_phase (s : State) : (loadHeader s).phase = .encHdr := rfl
@[simp] theorem loadHeader_cnt (s : State) : (loadHeader s).cnt = 0 := rfl
@[simp] theorem loadHeader_pos (s : State) : (loadHeader s).pos = s.pos := rfl
@[simp] theorem loadHeader_hdr (s : State) :
    (loadHeader s).hdr = ⟨firstByte (opc s.ctrl.opsel), byteB1 (maskEnabled s) (len7code s.len), s.len, maskKey s⟩ :=
  rfl
@[simp] theorem loadHeader_inp (s : State) : (loadHeader s).inp = s.inp := rfl
@[simp] theorem loadHeader_inEos (s : State) : (loadHeader s).inEos = s.inEos := rfl
@[simp] theorem loadHeader_out (s : State) : (loadHeader s).out = s.out := rfl
@[simp] theorem loadHeader_host (s : State) : (loadHeader s).host = s.host := rfl
@[simp] theorem loadHeader_reads (s : State) : (loadHeader s).reads = s.reads := rfl
@[simp] theorem loadHeader_turns (s : State) : (loadHeader s).turns = s.turns := rfl
@[simp] theorem loadHeader_cycle (s : State) : (loadHeader s).cycle = s.cycle := rfl
@[simp] theorem loadHeader_cfg (s : State) : (loadHeader s).cfg = s.cfg := rfl

@[simp] theorem blockReset_ctrl (s : State) : (blockReset s).ctrl = Ctrl.reset := rfl
@[simp] theorem blockReset_len (s : State) : (blockReset s).len = 0 := rfl
@[simp] theorem blockReset_key (s : State) : (blockReset s).key = 0 := rfl
@[simp] theorem blockReset_flags (s : State) : (blockReset s).flags = Flags.zero := rfl
@[simp] theorem blockReset_phase (s : State) : (blockReset s).phase = .idle := rfl
@[simp] theorem blockReset_cnt (s : State) : (blockReset s).cnt = 0 := rfl
@[simp] theorem blockReset_pos (s : State) : (blockReset s).pos = 0 := rfl
@[simp] theorem blockReset_hdr (s : State) : (blockReset s).hdr = Header.zero := rfl
@[simp] theorem blockReset_inp (s : State) : (blockReset s).inp = s.inp := rfl
@[simp] theorem blockReset_inEos (s : State) : (blockReset s).inEos = s.inEos := rfl
@[simp] theorem blockReset_out (s : State) : (blockReset s).out = s.out := rfl
@[simp] theorem blockReset_host (s : State) : (blockReset s).host = s.host := rfl
@[simp] theorem blockReset_reads (s : State) : (blockReset s).reads = s.reads := rfl
@[simp] theorem blockReset_turns (s : State) : (blockReset s).turns = s.turns := rfl
@[simp] theorem blockReset_cycle (s : State) : (blockReset s).cycle = s.cycle := rfl
@[simp] theorem blockReset_cfg (s : State) : (blockReset s).cfg = s.cfg := rfl

@[simp] theorem hostRead_ctrl (off : Nat) (s : State) : (hostRead off s).ctrl = s.ctrl := rfl
@[simp] theorem hostRead_len (off : Nat) (s : State) : (hostRead off s).len = s.len := rfl
@[simp] theorem hostRead_key (off : Nat) (s : State) : (hostRead off s).key = s.key := rfl
@[simp] theorem hostRead_flags (off : Nat) (s : State) : (hostRead off s).flags = s.flags := rfl
@[simp] theorem hostRead_phase (off : Nat) (s : State) : (hostRead off s).phase = s.phase := rfl
@[simp] theorem hostRead_cnt (off : Nat) (s : State) : (hostRead off s).cnt = s.cnt := rfl
@[simp] theorem hostRead_pos (off : Nat) (s : State) : (hostRead off s).pos = s.pos := rfl
@[simp] theorem hostRead_hdr (off : Nat) (s : State) : (hostRead off s).hdr = s.hdr := rfl
@[simp] theorem hostRead_inp (off : Nat) (s : State) : (hostRead off s).inp = s.inp := rfl
@[simp] theorem hostRead_inEos (off : Nat) (s : State) : (hostRead off s).inEos = s.inEos := rfl
@[simp] theorem hostRead_out (off : Nat) (s : State) : (hostRead off s).out = s.out := rfl
@[simp] theorem hostRead_host (off : Nat) (s : State) : (hostRead off s).host = s.host := rfl
@[simp] theorem hostRead_reads (off : Nat) (s : State) : (hostRead off s).reads = s.reads ++ [regRead off s] := rfl
@[simp] theorem hostRead_turns (off : Nat) (s : State) : (hostRead off s).turns = s.turns := rfl
@[simp] theorem hostRead_cycle (off : Nat) (s : State) : (hostRead off s).cycle = s.cycle := rfl
@[simp] theorem hostRead_cfg (off : Nat) (s : State) : (hostRead off s).cfg = s.cfg := rfl

@[simp] theorem raise_ctrl (e : ErrKind) (s : State) : (raise e s).ctrl = s.ctrl := by cases e <;> rfl
@[simp] theorem raise_len (e : ErrKind) (s : State) : (raise e s).len = s.len := by cases e <;> rfl
@[simp] theorem raise_key (e : ErrKind) (s : State) : (raise e s).key = s.key := by cases e <;> rfl
@[simp] theorem raise_pos (e : ErrKind) (s : State) : (raise e s).pos = s.pos := by cases e <;> rfl
@[simp] theorem raise_inp (e : ErrKind) (s : State) : (raise e s).inp = s.inp := by cases e <;> rfl
@[simp] theorem raise_inEos (e : ErrKind) (s : State) : (raise e s).inEos = s.inEos := by cases e <;> rfl
@[simp] theorem raise_out (e : ErrKind) (s : State) : (raise e s).out = s.out := by cases e <;> rfl
@[simp] theorem raise_host (e : ErrKind) (s : State) : (raise e s).host = s.host := by cases e <;> rfl
@[simp] theorem raise_reads (e : ErrKind) (s : State) : (raise e s).reads = s.reads := by cases e <;> rfl
@[simp] theorem raise_turns (e : ErrKind) (s : State) : (raise e s).turns = s.turns := by cases e <;> rfl
@[simp] theorem raise_cycle (e : ErrKind) (s : State) : (raise e s).cycle = s.cycle := by cases e <;> rfl
@[simp] theorem raise_cfg (e : ErrKind) (s : State) : (raise e s).cfg = s.cfg := by cases e <;> rfl

@[simp] theorem payStart_ctrl (s : State) : (payStart s).ctrl = s.ctrl := by unfold payStart; split <;> rfl
@[simp] theorem payStart_len (s : State) : (payStart s).len = s.len := by unfold payStart; split <;> rfl
@[simp] theorem payStart_key (s : State) : (payStart s).key = s.key := by unfold payStart; split <;> rfl
@[simp] theorem payStart_cnt (s : State) : (payStart s).cnt = 0 := by unfold payStart; split <;> rfl
@[simp] theorem payStart_pos (s : State) : (payStart s).pos = 0 := by unfold payStart; split <;> rfl
@[simp] theorem payStart_hdr (s : State) : (payStart s).hdr = s.hdr := by unfold payStart; split <;> rfl
@[simp] theorem payStart_inp (s : State) : (payStart s).inp = s.inp := by unfold payStart; split <;> rfl
@[simp] theorem payStart_inEos (s : State) : (payStart s).inEos = s.inEos := by unfold payStart; split <;> rfl
@[simp] theorem payStart_out (s : State) : (payStart s).out = s.out := by unfold payStart; split <;> rfl
@[simp] theorem payStart_host (s : State) : (payStart s).host = s.host := by unfold payStart; split <;> rfl
@[simp] theorem payStart_reads (s : State) : (payStart s).reads = s.reads := by unfold payStart; split <;> rfl
@[simp] theorem payStart_turns (s : State) : (payStart s).turns = s.turns := by unfold payStart; split <;> rfl
@[simp] theorem payStart_cycle (s : State) : (payStart s).cycle = s.cycle := by unfold payStart; split <;> rfl
@[simp] theorem payStart_cfg (s : State) : (payStart s).cfg = s.cfg := by unfold payStart; split <;> rfl

@[simp] theorem payAdvance_ctrl (s : State) : (payAdvance s).ctrl = s.ctrl := by unfold payAdvance; split <;> rfl
@[simp] theorem payAdvance_len (s : State) : (payAdvance s).len = s.len := by unfold payAdvance; split <;> rfl
@[simp] theorem payAdvance_key (s : State) : (payAdvance s).key = s.key := by unfold payAdvance; split <;> rfl
@[simp] theorem payAdvance_pos (s : State) : (payAdvance s).pos = s.pos + 1 := by unfold payAdvance; split <;> rfl
@[simp] theorem payAdvance_hdr (s : State) : (payAdvance s).hdr = s.hdr := by unfold payAdvance; split <;> rfl
@[simp] theorem payAdvance_inp (s : State) : (payAdvance s).inp = s.inp := by unfold payAdvance; split <;> rfl
@[simp] theorem payAdvance_inEos (s : State) : (payAdvance s).inEos = s.inEos := by unfold payAdvance; split <;> rfl
@[simp] theorem payAdvance_out (s : State) : (payAdvance s).out = s.out := by unfold payAdvance; split <;> rfl
@[simp] theorem payAdvance_host (s : State) : (payAdvance s).host = s.host := by unfold payAdvance; split <;> rfl
@[simp] theorem payAdvance_reads (s : State) : (payAdvance s).reads = s.reads := by unfold payAdvance; split <;> rfl
@[simp] theorem payAdvance_turns (s : State) : (payAdvance s).turns = s.turns := by unfold payAdvance; split <;> rfl
@[simp] theorem payAdvance_cycle (s : State) : (payAdvance s).cycle = s.cycle := by unfold payAdvance; split <;> rfl
@[simp] theorem payAdvance_cfg (s : State) : (payAdvance s).cfg = s.cfg := by unfold payAdvance; split <;> rfl

@[simp] theorem keyStep_ctrl (s : State) : (keyStep s).ctrl = s.ctrl := by unfold keyStep; split <;> simp
@[simp] theorem keyStep_len (s : State) : (keyStep s).len = s.len := by unfold keyStep; split <;> simp
@[simp] theorem keyStep_key (s : State) : (keyStep s).key = s.key := by unfold keyStep; split <;> simp
@[simp] theorem keyStep_cnt (s : State) : (keyStep s).cnt = 0 := by unfold keyStep; split <;> simp
@[simp] theorem keyStep_inp (s : State) : (keyStep s).inp = s.inp := by unfold keyStep; split <;> simp
@[simp] theorem keyStep_inEos (s : State) : (keyStep s).inEos = s.inEos := by unfold keyStep; split <;> simp
@[simp] theorem keyStep_out (s : State) : (keyStep s).out = s.out := by unfold keyStep; split <;> simp
@[simp] theorem keyStep_host (s : State) : (keyStep s).host = s.host := by unfold keyStep; split <;> simp
@[simp] theorem keyStep_reads (s : State) : (keyStep s).reads = s.reads := by unfold keyStep; split <;> simp
@[simp] theorem keyStep_turns (s : State) : (keyStep s).turns = s.turns := by unfold keyStep; split <;> simp
@[simp] theorem keyStep_cycle (s : State) : (keyStep s).cycle = s.cycle := by unfold keyStep; split <;> simp
@[simp] theorem keyStep_cfg (s : State) : (keyStep s).cfg = s.cfg := by unfold keyStep; split <;> simp

@[simp] theorem encAdvance_ctrl (s : State) : (encAdvance s).ctrl = s.ctrl := by unfold encAdvance; split <;> simp
@[simp] theorem encAdvance_len (s : State) : (encAdvance s).len = s.len := by unfold encAdvance; split <;> simp
@[simp] theorem encAdvance_key (s : State) : (encAdvance s).key = s.key := by unfold encAdvance; split <;> simp
@[simp] theorem encAdvance_hdr (s : State) : (encAdvance s).hdr = s.hdr := by unfold encAdvance; split <;> simp
@[simp] theorem encAdvance_inp (s : State) : (encAdvance s).inp = s.inp := by unfold encAdvance; split <;> simp
@[simp] theorem encAdvance_inEos (s : State) : (encAdvance s).inEos = s.inEos := by unfold encAdvance; split <;> simp
@[simp] theorem encAdvance_out (s : State) : (encAdvance s).out = s.out := by unfold encAdvance; split <;> simp
@[simp] theorem encAdvance_host (s : State) : (encAdvance s).host = s.host := by unfold encAdvance; split <;> simp
@[simp] theorem encAdvance_reads (s : State) : (encAdvance s).reads = s.reads := by unfold encAdvance; split <;> simp
@[simp] theorem encAdvance_turns (s : State) : (encAdvance s).turns = s.turns := by unfold encAdvance; split <;> simp
@[simp] theorem encAdvance_cycle (s : State) : (encAdvance s).cycle = s.cycle := by unfold encAdvance; split <;> simp
@[simp] theorem encAdvance_cfg (s : State) : (encAdvance s).cfg = s.cfg := by unfold encAdvance; split <;> simp

end Sys2Proof.Machine
end

