-- ==== Sys2Proof/Laws/Ops.lean ====
section
/-! SUPPORT. For each shared operation, once, everything it can do; that the sequencer's instructions are the operation
of the phase; and what taking a turn changes. Later proofs cite these instead of unfolding the operations. -/

namespace Sys2Proof.Machine

/-! ### Reading -/

theorem readOr_eos {e : ErrKind} {k : Byte → State → Result} {s : State} (h : s.inp = []) :
    readOr e k s = .next (raise e s) := by
  simp [readOr, inRead, h]

theorem readOr_byte {e : ErrKind} {k : Byte → State → Result} {s : State} {b : Byte} {rest : List Byte}
    (h : s.inp = b :: rest) : readOr e k s = k b { s with inp := rest } := by
  simp [readOr, inRead, h]

/-- A read either meets the end of the input or hands on its first byte. -/
theorem readOr_cases {e : ErrKind} {k : Byte → State → Result} {s t : State} (h : readOr e k s = .next t) :
    (s.inp = [] ∧ t = raise e s) ∨ ∃ b rest, s.inp = b :: rest ∧ k b { s with inp := rest } = .next t := by
  cases hi : s.inp with
  | nil => rw [readOr_eos hi] at h; simp_all
  | cons b rest => rw [readOr_byte hi] at h; exact .inr ⟨b, rest, rfl, h⟩

/-! ### Transitions -/

theorem payStart_cases (s : State) :
    (s.hdr.len = 0 ∧ payStart s = finish { s with cnt := 0, pos := 0 }) ∨
    (s.hdr.len ≠ 0 ∧ payStart s = { s with cnt := 0, pos := 0, phase := .payload }) := by
  unfold payStart
  split
  · exact .inl ⟨‹_›, rfl⟩
  · exact .inr ⟨‹_›, rfl⟩

theorem payAdvance_cases (s : State) :
    (s.pos + 1 = s.hdr.len ∧ payAdvance s = finish { s with pos := s.pos + 1 }) ∨
    (s.pos + 1 ≠ s.hdr.len ∧ payAdvance s = { s with pos := s.pos + 1 }) := by
  unfold payAdvance
  split
  · exact .inl ⟨‹_›, rfl⟩
  · exact .inr ⟨‹_›, rfl⟩

theorem keyStep_cases (s : State) :
    (maskBit s.hdr.b1 = true ∧ keyStep s = { s with cnt := 0, phase := .decKey }) ∨
    (maskBit s.hdr.b1 = false ∧ keyStep s = payStart (raise .unmaskedFrameEncountered s)) := by
  unfold keyStep
  split
  · exact .inl ⟨‹_›, rfl⟩
  · exact .inr ⟨Bool.eq_false_iff.mpr ‹_›, rfl⟩

theorem encAdvance_cases (s : State) :
    (s.cnt.toNat + 1 < hdrlen s.hdr.b1 ∧ encAdvance s = { s with cnt := s.cnt + 1 }) ∨
    (hdrlen s.hdr.b1 ≤ s.cnt.toNat + 1 ∧ encAdvance s = payStart s) := by
  unfold encAdvance
  split
  · exact .inl ⟨‹_›, rfl⟩
  · exact .inr ⟨by omega, rfl⟩

/-- The fatal kinds end the operation and leave everything but the flag as it was (R200). -/
theorem raise_fatal {e : ErrKind} (h : errFatal e = true) (s : State) :
    raise e s = { s with phase := .idle, cnt := 0, flags := { setFlag e s.flags with busy := false } } := by
  cases e <;> simp_all [raise, errFatal, fatalExit]

/-! ### Connecting streams -/

/-- A new input stream either meets a busy block and is refused, or replaces the old one. -/
theorem hostInput_cases (bytes : List Byte) (s : State) :
    (s.flags.busy = true ∧ hostInput bytes s = .refused .inputReplacedWhileBusy) ∨
    (s.flags.busy = false ∧ hostInput bytes s = .next { s with inp := bytes, inEos := false }) := by
  cases h : s.flags.busy <;> simp [hostInput, h]

/-- Feeding `OUT` back is a new input stream and a fresh sink. -/
theorem hostFeedBack_cases (s : State) :
    (s.flags.busy = true ∧ hostFeedBack s = .refused .inputReplacedWhileBusy) ∨
    (s.flags.busy = false ∧ hostFeedBack s = .next { s with inp := s.out, inEos := false, out := [] }) :=
  hostInput_cases s.out { s with out := [] }

/-! ### The rows of the table and the operation of the phase -/

/-- The byte `B0` is its upper four bits and its opcode. -/
theorem byteB0_fields (b : Byte) : byteB0 (b.extractLsb' 4 4) (opcodeOf b) = b := by
  revert b; decide

theorem decodeB0_ok {b : Byte} {i : Instr} (h : decodeB0 b = .ok i) :
    (i = .text (b.extractLsb' 4 4) ∧ byteB0 (b.extractLsb' 4 4) 1#4 = b) ∨
    (i = .binary (b.extractLsb' 4 4) ∧ byteB0 (b.extractLsb' 4 4) 2#4 = b) := by
  have join : byteB0 (b.extractLsb' 4 4) (b.extractLsb' 0 4) = b := byteB0_fields b
  unfold decodeB0 at h
  split at h
  · rename_i ht
    injection h with h
    rw [ht] at join
    exact .inl ⟨h.symm, join⟩
  · split at h
    · rename_i ht
      injection h with h
      rw [ht] at join
      exact .inr ⟨h.symm, join⟩
    · cases h

/-- The byte `B1` is its mask bit and its 7-bit field. -/
theorem byteB1_fields (b : Byte) : byteB1 (maskBit b) (len7 b) = b := by
  revert b; decide

/-- Every form a second header byte has runs as `passB1` of that byte. -/
theorem exec_decodeHdr (b0 b1 : Byte) (s : State) : exec (decodeHdr b0 b1) s = passB1 b1 s := by
  have hb : byteB1 (b1.getLsbD 7) (b1.extractLsb' 0 7) = b1 := byteB1_fields b1
  unfold decodeHdr
  cases hm : b1.getLsbD 7 <;> rw [hm] at hb <;> by_cases h6 : b1.extractLsb' 0 7 = 126#7 <;>
    by_cases h7 : b1.extractLsb' 0 7 = 127#7 <;>
    simp_all [exec, execHdr7m, execHdr7u, execHdr16m, execHdr16u, execHdr64m, execHdr64u] <;>
    (rw [← hb]; rfl)

/-- Every first header byte runs as `passB0` of that byte, or as the codec operation. -/
theorem exec_firstByteInstr (b : Byte) (codec : Instr) (s : State) :
    exec (firstByteInstr b codec) s = passB0 b s ∨ exec (firstByteInstr b codec) s = exec codec s := by
  unfold firstByteInstr
  cases h : decodeB0 b with
  | ok i =>
    left
    obtain ⟨rfl, hb⟩ | ⟨rfl, hb⟩ := decodeB0_ok h <;> simp [exec, execText, execBinary, hb]
  | error _ => exact .inr rfl

theorem passB0_eq_decode {s : State} {b : Byte} {rest : List Byte} (hp : s.phase = .decB0) (hi : s.inp = b :: rest) :
    passB0 b s = execDecode s := by
  simp [passB0, execDecode, hp, readOr_byte hi]

theorem passB1_eq_decode {s : State} {b : Byte} {rest : List Byte} (hp : s.phase = .decB1) (hi : s.inp = b :: rest) :
    passB1 b s = execDecode s := by
  simp [passB1, execDecode, hp, readOr_byte hi]

theorem passB0_eq_encode {s : State} (hp : s.phase = .encHdr) (hc : s.cnt = 0) : passB0 s.hdr.b0 s = execEncode s := by
  simp [passB0, execEncode, hp, hc, hdrByte]

theorem passB1_eq_encode {s : State} (hp : s.phase = .encHdr) (hc : s.cnt = 1) : passB1 s.hdr.b1 s = execEncode s := by
  simp [passB1, execEncode, hp, hc, hdrByte]

/-- The operation a phase performs. -/
def phaseOp (p : Phase) : Instr :=
  match p with
  | .idle => .decode
  | .encHdr => .encode
  | .decB0 => .decode
  | .decB1 => .decode
  | .decExt => .decode
  | .decKey => .decode
  | .payload => .apply

/-- Whatever row the sequencer's step is run as, it is the operation of the phase; `s'` is the state in which the turn has
been taken. -/
theorem exec_seqInstr {s s' : State} {src snk : Bool} {i : Instr} (h : seqInstr s src snk = some i)
    (hp : s'.phase = s.phase) (hc : s'.cnt = s.cnt) (hh : s'.hdr = s.hdr) (hi : s'.inp = s.inp) :
    exec i s' = exec (phaseOp s.phase) s' := by
  unfold seqInstr at h
  cases hs : s.phase with
  | idle => simp [hs] at h
  | encHdr =>
    simp only [hs] at h
    split at h
    · injection h with h
      subst h
      split
      · rename_i h0
        obtain e | e := exec_firstByteInstr s.hdr.b0 .encode s'
        · rw [e, ← hh, passB0_eq_encode (hp.trans hs) (hc.trans h0)]; rfl
        · rw [e]; rfl
      · split
        · rename_i h1
          rw [exec_decodeHdr, ← hh, passB1_eq_encode (hp.trans hs) (hc.trans h1)]; rfl
        · rfl
    · cases h
  | decB0 =>
    simp only [hs] at h
    split at h
    · split at h <;> injection h with h <;> subst h
      · rfl
      · rename_i b rest hb
        obtain e | e := exec_firstByteInstr b .decode s'
        · rw [e, passB0_eq_decode (hp.trans hs) (hi.trans hb)]; rfl
        · rw [e]; rfl
    · cases h
  | decB1 =>
    simp only [hs] at h
    split at h
    · split at h <;> injection h with h <;> subst h
      · rfl
      · rename_i b rest hb
        rw [exec_decodeHdr, passB1_eq_decode (hp.trans hs) (hi.trans hb)]; rfl
    · cases h
  | decExt => simp only [hs] at h; split at h <;> cases h; rfl
  | decKey => simp only [hs] at h; split at h <;> cases h; rfl
  | payload => simp only [hs] at h; split at h <;> cases h; rfl

/-! ### Taking a turn -/

theorem currentTurn_cons {s : State} {u : Turn} {ts : List Turn} (h : s.turns = u :: ts) : currentTurn s = u := by
  simp [currentTurn, h]

theorem laterTurns_cons {s : State} {u : Turn} {ts : List Turn} (h : s.turns = u :: ts) : laterTurns s = ts := by
  simp [laterTurns, h]

/-- Every turn of a schedule with a cycle is one of its entries. -/
theorem currentTurn_mem {s : State} (h : s.cycle ≠ []) : currentTurn s ∈ s.turns ++ s.cycle := by
  unfold currentTurn
  split
  · simp_all
  · split <;> simp_all

/-- A step adds no turn to the schedule. -/
theorem laterTurns_subset {s : State} {u : Turn} (h : u ∈ laterTurns s) : u ∈ s.turns ++ s.cycle := by
  unfold laterTurns at h
  split at h
  · simp_all
  · exact List.mem_append_right _ (List.mem_of_mem_tail h)

@[simp] theorem advance_ctrl (s : State) : (advance s).ctrl = s.ctrl := by unfold advance; split <;> rfl
@[simp] theorem advance_len (s : State) : (advance s).len = s.len := by unfold advance; split <;> rfl
@[simp] theorem advance_key (s : State) : (advance s).key = s.key := by unfold advance; split <;> rfl
@[simp] theorem advance_flags (s : State) : (advance s).flags = s.flags := by unfold advance; split <;> rfl
@[simp] theorem advance_phase (s : State) : (advance s).phase = s.phase := by unfold advance; split <;> rfl
@[simp] theorem advance_cnt (s : State) : (advance s).cnt = s.cnt := by unfold advance; split <;> rfl
@[simp] theorem advance_pos (s : State) : (advance s).pos = s.pos := by unfold advance; split <;> rfl
@[simp] theorem advance_hdr (s : State) : (advance s).hdr = s.hdr := by unfold advance; split <;> rfl
@[simp] theorem advance_inp (s : State) : (advance s).inp = s.inp := by unfold advance; split <;> rfl
@[simp] theorem advance_out (s : State) : (advance s).out = s.out := by unfold advance; split <;> rfl
@[simp] theorem advance_reads (s : State) : (advance s).reads = s.reads := by unfold advance; split <;> rfl
@[simp] theorem advance_turns (s : State) : (advance s).turns = laterTurns s := by unfold advance; split <;> rfl
@[simp] theorem advance_cycle (s : State) : (advance s).cycle = s.cycle := by unfold advance; split <;> rfl
@[simp] theorem advance_cfg (s : State) : (advance s).cfg = s.cfg := by unfold advance; split <;> rfl

/-- An operation that waits on its environment has no enabled step (R154). -/
theorem seqInstr_of_waits {s : State} {src snk : Bool} (h : Waits s src snk) : seqInstr s src snk = none := by
  obtain ⟨hp, rfl⟩ | ⟨hp, rfl, he⟩ | ⟨hp, rfl, hi⟩ := h
  · simp [seqInstr, hp]
  · cases hs : s.phase <;> simp_all [seqInstr, sourceReady]
  · simp [seqInstr, hp, hi]

/-- A step of the sequencer's turn: the operation of the phase if it is enabled, else nothing. -/
theorem step_seq {s : State} {src snk : Bool} (h : currentTurn s = .seq src snk) :
    (∃ i, seqInstr s src snk = some i ∧ step s = exec (phaseOp s.phase) (advance s)) ∨
    (seqInstr s src snk = none ∧ step s = .next (advance s)) := by
  cases hi : seqInstr s src snk with
  | none => right; simp [step, fetch, h, hi]
  | some i =>
    left
    refine ⟨i, rfl, ?_⟩
    have : fetch s = .run i := by simp [fetch, h, hi]
    simp only [step, this]
    exact exec_seqInstr hi (advance_phase s) (advance_cnt s) (advance_hdr s) (advance_inp s)

/-- Everything a step can do: a sequencer operation, nothing, a command of the host, or another line of the host. -/
theorem step_cases {s t : State} (h : step s = .next t) :
    (∃ src snk, currentTurn s = .seq src snk ∧ s.phase ≠ .idle ∧ exec (phaseOp s.phase) (advance s) = .next t) ∨
    t = advance s ∨
    (∃ v i, currentTurn s = .host ∧ decodeCtrl v = .ok i ∧ exec i (advance s) = .next t) ∨
    (∃ l ls, currentTurn s = .host ∧ s.host = l :: ls ∧ fetch s = .line l ∧ hostLine l (advance s) = .next t) := by
  cases ht : currentTurn s with
  | seq src snk =>
    obtain ⟨i, hi, hs⟩ | ⟨-, hs⟩ := step_seq ht
    · left
      refine ⟨src, snk, rfl, ?_, hs ▸ h⟩
      intro hp; simp [seqInstr, hp] at hi
    · right; left
      rw [hs] at h; injection h with h; exact h.symm
  | host =>
    have hf : fetch s = hostMove s := by simp [fetch, ht]
    cases hm : hostMove s with
    | rest =>
      right; left
      simp only [step, hf, hm] at h
      injection h with h; exact h.symm
    | run i =>
      right; right; left
      simp only [step, hf, hm] at h
      unfold hostMove at hm
      split at hm
      · cases hm
      · split at hm
        · split at hm
          · rename_i hd
            cases hm
            exact ⟨_, _, rfl, hd, h⟩
          · cases hm
        · cases hm
      · cases hm
    | line l =>
      right; right; right
      have hfl : fetch s = .line l := hf.trans hm
      simp only [step, hfl] at h
      unfold hostMove at hm
      split at hm
      · cases hm
      · rename_i hl
        split at hm
        · split at hm
          · cases hm
          · cases hm; exact ⟨_, _, rfl, hl, hfl, h⟩
        · cases hm; exact ⟨_, _, rfl, hl, hfl, h⟩
      · rename_i hl
        cases hm
        exact ⟨_, _, rfl, hl, hfl, h⟩

end Sys2Proof.Machine
end

