-- ==== Sys2Proof/Laws/PerInstr.lean ====
section
/-! SUPPORT. Laws stated per instruction (LAWS.json). Family `EncodingInRow`: the word of an instruction stands on its row's
carrier, uses no bit the carrier ignores, and matches its row; the internal operations, and only they, have no word. -/

namespace Sys2Proof.Laws.EncodingInRow

/-- The family's statement about one instruction (R98). -/
def Statement (i : Instr) : Prop :=
  (Sys2Proof.encode i = none ↔ i.row.carrier = .internal) ∧
  ∀ (c : Carrier) (w : Word), Sys2Proof.encode i = some (c, w) →
    c = i.row.carrier ∧ w &&& c.significant = w ∧ w &&& i.row.mask = i.row.pattern

/-- An instruction with the one word `w` on carrier `c`. -/
theorem of_word {i : Instr} {c : Carrier} {w : Word} (he : Sys2Proof.encode i = some (c, w))
    (hc : i.row.carrier = c) (hn : c ≠ .internal) (hs : w &&& c.significant = w) (hr : w &&& i.row.mask = i.row.pattern) :
    Statement i := by
  refine ⟨by simp [he, hc, hn], ?_⟩
  intro c' w' h
  rw [he] at h
  injection h with h
  injection h with h1 h2
  subst h1 h2
  exact ⟨hc.symm, hs, hr⟩

/-- A header word has no bit above 15. -/
theorem hdrWord_significant (b0 b1 : Byte) : hdrWord b0 b1 &&& Carrier.hdr.significant = hdrWord b0 b1 := by
  have hlt : (hdrWord b0 b1).toNat < 2 ^ 16 := by
    have h0 := b0.isLt
    have h1 := b1.isLt
    simp only [hdrWord, BitVec.toNat_or, BitVec.toNat_shiftLeft, BitVec.toNat_setWidth]
    apply Nat.or_lt_two_pow <;> simp [Nat.shiftLeft_eq] <;> omega
  apply BitVec.eq_of_toNat_eq
  rw [BitVec.toNat_and]
  exact (Nat.and_two_pow_sub_one_eq_mod _ 16).trans (Nat.mod_eq_of_lt hlt)

/-- The low byte of a header word is `B1`. -/
theorem hdrWord_low (b0 b1 : Byte) : hdrWord b0 b1 &&& 0xFF#32 = b1.setWidth 32 := by
  have h0 := b0.isLt
  have h1 := b1.isLt
  apply BitVec.eq_of_toNat_eq
  rw [BitVec.toNat_and]
  refine (Nat.and_two_pow_sub_one_eq_mod _ 8).trans ?_
  rw [hdrWord, BitVec.toNat_or, Nat.or_mod_two_pow, BitVec.toNat_shiftLeft, BitVec.toNat_setWidth, BitVec.toNat_setWidth,
    Nat.shiftLeft_eq]
  have : (b0.toNat % 2 ^ 32 * 2 ^ 8 % 2 ^ 32) % 2 ^ 8 = 0 := by omega
  rw [this, Nat.zero_or]
  omega

/-- The mask bit of a header word is that of `B1`. -/
theorem hdrWord_maskBit (b0 b1 : Byte) : hdrWord b0 b1 &&& 0x80#32 = b1.setWidth 32 &&& 0x80#32 := by
  rw [← hdrWord_low b0 b1, BitVec.and_assoc]
  rfl

theorem mask (o k m : Bool) : Statement (.mask o k m) := by
  apply of_word (c := .ctrl) rfl rfl (by decide) <;> revert o k m <;> decide

theorem unmask (o k m : Bool) : Statement (.unmask o k m) := by
  apply of_word (c := .ctrl) rfl rfl (by decide) <;> revert o k m <;> decide

theorem encode : Statement .encode := ⟨by decide, fun _ _ h => by cases h⟩

theorem decode : Statement .decode := ⟨by decide, fun _ _ h => by cases h⟩

theorem apply : Statement .apply := ⟨by decide, fun _ _ h => by cases h⟩

theorem hdr7m (b0 : Byte) (n : BitVec 7) : Statement (.hdr7m b0 n) := by
  refine of_word (c := .hdr) rfl rfl (by decide) (hdrWord_significant _ _) ((hdrWord_maskBit _ _).trans ?_)
  change BitVec.setWidth 32 (byteB1 true n) &&& 0x80#32 = 0x80#32
  revert n; decide

theorem hdr7u (b0 : Byte) (n : BitVec 7) : Statement (.hdr7u b0 n) := by
  refine of_word (c := .hdr) rfl rfl (by decide) (hdrWord_significant _ _) ((hdrWord_maskBit _ _).trans ?_)
  change BitVec.setWidth 32 (byteB1 false n) &&& 0x80#32 = 0x00#32
  revert n; decide

theorem hdr16m (b0 : Byte) : Statement (.hdr16m b0) :=
  of_word (c := .hdr) rfl rfl (by decide) (hdrWord_significant _ _) (hdrWord_low _ _)

theorem hdr16u (b0 : Byte) : Statement (.hdr16u b0) :=
  of_word (c := .hdr) rfl rfl (by decide) (hdrWord_significant _ _) (hdrWord_low _ _)

theorem hdr64m (b0 : Byte) : Statement (.hdr64m b0) :=
  of_word (c := .hdr) rfl rfl (by decide) (hdrWord_significant _ _) (hdrWord_low _ _)

theorem hdr64u (b0 : Byte) : Statement (.hdr64u b0) :=
  of_word (c := .hdr) rfl rfl (by decide) (hdrWord_significant _ _) (hdrWord_low _ _)

theorem text (hi : BitVec 4) : Statement (.text hi) := by
  apply of_word (c := .b0) rfl rfl (by decide) <;> revert hi <;> decide

theorem binary (hi : BitVec 4) : Statement (.binary hi) := by
  apply of_word (c := .b0) rfl rfl (by decide) <;> revert hi <;> decide

end Sys2Proof.Laws.EncodingInRow
end

