-- ==== Sys2Proof/Tests/Slice0.lean ====
section
/-! SUPPORT. Smoke tests of the well-formedness check, one written-out word per constructor, one or two steps per instruction
with results from the spec's rules and worked examples, and a witness for the hypotheses of every obligation that has any. -/

open Sys2Proof Sys2Proof.Machine

namespace Sys2Proof.Tests

/-! ### Small states -/

/-- Parameters with a default key written out; `u` is `P_UNMASKED_ENCODE`. -/
def params (u : Bool) : Params :=
  { defaultKey := ⟨0x11, 0x22, 0x33, 0x44⟩, unmaskedEncode := u, expectedB0 := [0x81#8, 0x82#8] }

/-- The machine after reset with those parameters and some input. -/
def idle (u : Bool) (input : List Byte) : State := { State.reset with cfg := params u, inp := input }

/-- A running operation in a phase. -/
def running (p : Phase) (h : Header) (count : BitVec 4) (input : List Byte) : State :=
  { idle false input with phase := p, flags := { Flags.zero with busy := true }, hdr := h, cnt := count }

/-- The header record of the document's scenario, `82 82 DE AD BE EF` (R110). -/
def scenario : Header := ⟨0x82, 0x82, 2, ⟨0xDE, 0xAD, 0xBE, 0xEF⟩⟩

/-- The same state on a turn of the host with one line to run. -/
def hostTurn (l : HostLine) (s : State) : State := { s with turns := [.host], host := [l] }

/-- The same state on a turn of the sequencer. -/
def seqTurnOf (src snk : Bool) (s : State) : State := { s with turns := [.seq src snk] }

/-! ### Well-formedness (R83) -/

theorem test_hdr7m_length_126_refused : ¬ WellFormed (.hdr7m 0x82 126) := by decide
theorem test_hdr7m_length_127_refused : ¬ WellFormed (.hdr7m 0x82 127) := by decide
theorem test_hdr7u_length_126_refused : ¬ WellFormed (.hdr7u 0x82 126) := by decide
theorem test_hdr7u_length_127_refused : ¬ WellFormed (.hdr7u 0x82 127) := by decide
theorem test_tier7_length_125_accepted : WellFormed (.hdr7m 0x82 125) ∧ WellFormed (.hdr7u 0x82 125) := by decide

/-! ### Words written out from the tables of 30_encoding.md -/

/-- R93: 0x1D = bit 0 START, bit 1 = 0, bits 2, 3, 4 set. -/
theorem test_decode_mask : decodeTableWord 32 0x0000001D = some (.mask true true true) := by decide
/-- R93: bit 2 alone beside START, so the three mode bits are not exchanged. -/
theorem test_decode_mask_opsel : decodeTableWord 32 0xFFFFFFE5 = some (.mask true false false) := by decide
/-- R93: bits 1:0 = 11, bit 3 set, bits 31:5 ignored. -/
theorem test_decode_unmask : decodeTableWord 32 0xFFFFFFEB = some (.unmask false true false) := by decide
/-- R93: bit 0 = 0 is no command. -/
theorem test_decode_no_command : decodeTableWord 32 0x0000001E = none := by decide
/-- R83: `B1` = 0x80 | 125. -/
theorem test_decode_hdr7m : decodeTableWord 16 0x82FD = some (.hdr7m 0x82 125) := by decide
/-- R83: `B1` = 2. -/
theorem test_decode_hdr7u : decodeTableWord 16 0x8102 = some (.hdr7u 0x81 2) := by decide
/-- R84. -/
theorem test_decode_hdr16m : decodeTableWord 16 0x82FE = some (.hdr16m 0x82) := by decide
/-- R84. -/
theorem test_decode_hdr16u : decodeTableWord 16 0x827E = some (.hdr16u 0x82) := by decide
/-- R85. -/
theorem test_decode_hdr64m : decodeTableWord 16 0x81FF = some (.hdr64m 0x81) := by decide
/-- R85. -/
theorem test_decode_hdr64u : decodeTableWord 16 0x817F = some (.hdr64u 0x81) := by decide
/-- R89: FIN and opcode 1. -/
theorem test_decode_text : decodeTableWord 8 0x81 = some (.text 8) := by decide
/-- R89: opcode 2 without FIN. -/
theorem test_decode_binary : decodeTableWord 8 0x02 = some (.binary 0) := by decide
/-- R89: opcode 10 (0x8A) has no row. -/
theorem test_decode_other_opcode : decodeB0 0x8A#8 = .error .notAFrameOpcode := by rfl
/-- R98: the sub-operations have no word. -/
theorem test_internal_have_no_word :
    Sys2Proof.encode .encode = none ∧ Sys2Proof.encode .decode = none ∧ Sys2Proof.encode .apply = none := by decide

/-! ### The codec as functions -/

/-- R110, the document's scenario. -/
theorem test_encode_scenario :
    encodeHeader 2 2#4 true ⟨0xDE, 0xAD, 0xBE, 0xEF⟩ = [0x82, 0x82, 0xDE, 0xAD, 0xBE, 0xEF] := by decide
/-- R114, R115: the values around the tier boundaries; R118 for the last. -/
theorem test_encode_boundaries :
    (encodeHeader 126 2#4 false Key.zero = [0x82, 0x7E, 0x00, 0x7E]) ∧
    (encodeHeader 65535 2#4 false Key.zero = [0x82, 0x7E, 0xFF, 0xFF]) ∧
    (encodeHeader 65536 2#4 false Key.zero = [0x82, 0x7F, 0, 0, 0, 0, 0, 1, 0, 0]) ∧
    (encodeHeader 0x8000000000000000 2#4 false Key.zero = [0x82, 0x7F, 0x80, 0, 0, 0, 0, 0, 0, 0]) := by decide
/-- R133: `7E 00 05` is length 5. -/
theorem test_decode_non_minimal :
    (decodeHeader (params false) [0x82, 0x7E, 0x00, 0x05, 0xAA]).hdr.len = 5 ∧
      (decodeHeader (params false) [0x82, 0x7E, 0x00, 0x05, 0xAA]).rest = [0xAA] := by decide
/-- R142: a 5-byte payload of zeros shows the key bytes AA BB CC DD AA. -/
theorem test_key_rotation :
    transform ⟨0xAA, 0xBB, 0xCC, 0xDD⟩ 0 [0, 0, 0, 0, 0] = [0xAA, 0xBB, 0xCC, 0xDD, 0xAA] := by decide

/-! ### One step of each instruction -/

/-- R152: Binary, key from `KEY`, `LEN` = 2: the scenario's header record. -/
theorem test_mask_loads_header :
    (nextState? (exec (.mask true true true) { idle false [] with len := 2, key := 0xDEADBEEF })).map
      (fun t => (t.hdr, t.phase)) = some (scenario, .encHdr) := by decide
/-- R152, R88: Text, the default key, `LEN` = 126: tier 16. -/
theorem test_mask_default_key :
    (nextState? (exec (.mask false false false) { idle false [] with len := 126, key := 0xDEADBEEF })).map
      (fun t => t.hdr) = some ⟨0x81, 0xFE, 126, ⟨0x11, 0x22, 0x33, 0x44⟩⟩ := by decide
/-- R153, R182: the record of the last operation is cleared. -/
theorem test_unmask_clears :
    (nextState? (exec (.unmask false false false) { idle false [] with hdr := scenario, pos := 2 })).map
      (fun t => (t.hdr, t.pos, t.phase)) = some (Header.zero, 0, .decB0) := by decide
/-- R155, R120: header byte 2 of the scenario is DE. -/
theorem test_encode_emits_key_byte :
    (nextState? (exec .encode (running .encHdr scenario 2 [0x41]))).map (fun t => (t.out, t.cnt, t.inp)) =
      some ([0xDE], 3, [0x41]) := by decide
/-- R155, R156: byte 5 is the last one and leads to the payload. -/
theorem test_encode_last_byte :
    (nextState? (exec .encode (running .encHdr scenario 5 []))).map (fun t => (t.out, t.phase)) =
      some ([0xEF], .payload) := by decide
/-- R159: the second extension byte, `00 7E`. -/
theorem test_decode_accumulates :
    (nextState? (exec .decode (running .decExt ⟨0x82, 0xFE, 0x12, Key.zero⟩ 1 [0x34]))).map
      (fun t => (t.hdr.len, t.phase)) = some (0x1234, .decKey) := by decide
/-- R125: 0xC2 is not expected (its reserved bit), and the decode goes on. -/
theorem test_decode_malformed :
    (nextState? (exec .decode (running .decB0 Header.zero 0 [0xC2]))).map
      (fun t => (t.hdr.b0, t.flags.dMalformed, t.phase)) = some (0xC2, true, .decB1) := by decide
/-- R140: 41 xor DE = 9F. -/
theorem test_apply_first :
    (nextState? (exec .apply (running .payload scenario 0 [0x41, 0x42]))).map (fun t => (t.out, t.pos, t.phase)) =
      some ([0x9F], 1, .payload) := by decide
/-- R140, R162: 42 xor AD = EF at offset 1, the last of two bytes. -/
theorem test_apply_last :
    (nextState? (exec .apply { running .payload scenario 0 [0x42, 0x43] with pos := 1 })).map
      (fun t => (t.out, t.inp, t.flags.done)) = some ([0xEF], [0x43], true) := by decide
/-- R158: the forms as received. -/
theorem test_hdr7m_received :
    (nextState? (exec (.hdr7m 0x82 2) (running .decB1 Header.zero 0 [0x82]))).map
      (fun t => (t.hdr.b1, t.hdr.len, t.phase)) = some (0x82, 2, .decKey) := by decide
theorem test_hdr7u_received :
    (nextState? (exec (.hdr7u 0x81 2) (running .decB1 Header.zero 0 [0x02]))).map
      (fun t => (t.hdr.b1, t.flags.dUnmasked, t.phase)) = some (0x02, true, .payload) := by decide
theorem test_hdr16m_received :
    (nextState? (exec (.hdr16m 0x82) (running .decB1 Header.zero 0 [0xFE]))).map
      (fun t => (t.hdr.b1, t.phase)) = some (0xFE, .decExt) := by decide
/-- R155: the unmasked forms as emitted (R119). -/
theorem test_hdr16u_emitted :
    (nextState? (exec (.hdr16u 0x82) (running .encHdr ⟨0x82, 0x7E, 126, Key.zero⟩ 1 []))).map
      (fun t => (t.out, t.cnt)) = some ([0x7E], 2) := by decide
theorem test_hdr64m_emitted :
    (nextState? (exec (.hdr64m 0x82) (running .encHdr ⟨0x82, 0xFF, 65536, Key.zero⟩ 1 []))).map
      (fun t => (t.out, t.cnt)) = some ([0xFF], 2) := by decide
theorem test_hdr64u_received :
    (nextState? (exec (.hdr64u 0x82) (running .decB1 Header.zero 0 [0x7F]))).map
      (fun t => (t.hdr.b1, t.phase)) = some (0x7F, .decExt) := by decide
/-- R157, R155: the first byte as received and as emitted. -/
theorem test_text_received :
    (nextState? (exec (.text 8) (running .decB0 Header.zero 0 [0x81]))).map
      (fun t => (t.hdr.b0, t.flags.dMalformed)) = some (0x81, false) := by decide
theorem test_binary_emitted :
    (nextState? (exec (.binary 8) (running .encHdr scenario 0 []))).map (fun t => (t.out, t.cnt)) =
      some ([0x82], 1) := by decide
/-- R36, R181: `CTRL` after reset. -/
theorem test_ctrl_after_reset : regRead 0x00 (idle false []) = 0x14 := by decide
/-- R27: `HDR0` and `HDR_KEY` of the scenario. -/
theorem test_header_registers :
    regRead 0x14 { idle false [] with hdr := scenario } = 0x8282 ∧
      regRead 0x20 { idle false [] with hdr := scenario } = 0xDEADBEEF := by decide
/-- R26: `BUSY`, `D_MALFORMED`, `DIAG`, phase `DEC_EXT`, `CNT` = 1. -/
theorem test_status_word :
    regRead 0x04 { running .decExt Header.zero 1 [] with flags := { Flags.zero with busy := true, dMalformed := true } } =
      0x00140409 := by decide

/-! ### A word placed for the host runs as the first instruction after reset -/

theorem test_placed_word_runs :
    fetch (State.reset.withFetchWord 32 0x1D) = .run (.mask true true true) ∧
    fetch (State.reset.withFetchWord 16 0x82FE) = .run (.hdr16m 0x82) ∧
    fetch (State.reset.withFetchWord 8 0x81) = .run (.text 8) := by decide

/-! ### Witnesses: states and operands that meet the hypotheses of the obligations, clause by clause -/

/-- DecodeOfEncodeGivesInstruction, at the edge of the constraint. -/
theorem witness_encoded_instruction :
    WellFormed (.hdr7m 0x82 125) ∧ Sys2Proof.encode (.hdr7m 0x82 125) = some (.hdr, 0x82FD) := by decide

/-- EncodeOfDecodeGivesWord and the first clause of DecodingFollowsTableRows: a command with ignored bits set. -/
theorem witness_accepted_word : Sys2Proof.decode .ctrl 0xFFFFFFE1 = .ok (.mask false false false) := by rfl

/-- The second clause of DecodingFollowsTableRows: a tier 7 word at its bound, and a word of a row without constraint. -/
theorem witness_word_of_a_row :
    ((Instr.hdr7u 0 0).row.carrier ≠ .internal ∧ 0x817D#32 &&& (Instr.hdr7u 0 0).row.mask = (Instr.hdr7u 0 0).row.pattern ∧
      (0x817D#32 &&& 0x7F#32).toNat ≤ 125) ∧
    ((Instr.hdr64m 0).row.carrier ≠ .internal ∧ 0x82FF#32 &&& (Instr.hdr64m 0).row.mask = (Instr.hdr64m 0).row.pattern ∧
      (Instr.hdr64m 0).row.mask ≠ 0x80#32) := by decide

/-- EncodeHeaderByTier: both ends of each tier. -/
theorem witness_tiers :
    (0#64).toNat ≤ 125 ∧ (125#64).toNat ≤ 125 ∧
    (125 < (126#64).toNat ∧ (126#64).toNat ≤ 65535) ∧ (125 < (65535#64).toNat ∧ (65535#64).toNat ≤ 65535) ∧
    65535 < (65536#64).toNat ∧ 65535 < (0xFFFFFFFFFFFFFFFF#64).toNat := by decide

/-- DecodedLengthIsWhatTheTierSpells: 125, 126, 127, masked and not. -/
theorem witness_length_fields :
    (len7 0x7D).toNat ≤ 125 ∧ (len7 0xFD).toNat ≤ 125 ∧ (len7 0x7E).toNat = 126 ∧ (len7 0xFE).toNat = 126 ∧
    (len7 0x7F).toNat = 127 ∧ (len7 0xFF).toNat = 127 := by decide

/-- DecodeConsumesExactlyTheHeader: a complete header with nothing after it, and one byte less. -/
theorem witness_complete_and_truncated :
    (decodeHeader (params false) [0x82, 0x82, 0xDE, 0xAD, 0xBE, 0xEF]).truncated = false ∧
    (decodeHeader (params false) [0x82, 0x82, 0xDE, 0xAD, 0xBE]).truncated = true ∧
    (decodeHeader (params false) []).truncated = true := by decide

/-- MaskStartsEncoding, UnmaskStartsDecoding. -/
theorem witness_idle : (idle false []).flags.busy = false := by decide

/-- RegisterWritesWhileIdle, ParametersReadBack: a write to each offset, a read-only and an unmapped one among them; and a value
without START for `CTRL`. -/
theorem witness_write_while_idle :
    (∀ off ∈ [0x00, 0x08, 0x0C, 0x10, 0x04, 0x2C, 0x09],
      (hostTurn (.wr off 0x1E) (idle true [])).flags.busy = false ∧
      currentTurn (hostTurn (.wr off 0x1E) (idle true [])) = .host ∧
      (hostTurn (.wr off 0x1E) (idle true [])).host = [.wr off 0x1E]) ∧
    (0x1E#32).getLsbD 0 = false ∧ 0x04 ∉ [0x00, 0x08, 0x0C, 0x10] ∧ 0x2C ∉ [0x00, 0x08, 0x0C, 0x10] := by decide

/-- WritesWhileBusyAreIgnored: a START and a parameter write. -/
theorem witness_write_while_busy :
    ∀ off ∈ [0x00, 0x08, 0x10], (hostTurn (.wr off 0x1D) (running .payload scenario 0 [])).flags.busy = true ∧
      currentTurn (hostTurn (.wr off 0x1D) (running .payload scenario 0 [])) = .host ∧
      (hostTurn (.wr off 0x1D) (running .payload scenario 0 [])).host = [.wr off 0x1D] := by decide

/-- EncodeEmitsOneHeaderByte: the first and the last index, with a payload and with none. -/
theorem witness_header_byte :
    (running .encHdr scenario 0 []).phase = .encHdr ∧ hdrByte scenario 0 = some 0x82 ∧ hdrByte scenario 5 = some 0xEF ∧
    hdrByte ⟨0x82, 0x80, 0, Key.zero⟩ 5 = some 0 := by decide

/-- DecodeReadsFirstByte, FrameOpcodesAreReceived. -/
theorem witness_first_byte :
    (running .decB0 Header.zero 0 [0x81]).phase = .decB0 ∧ (running .decB0 Header.zero 0 [0x81]).inp = [0x81] := by decide

/-- DecodeReadsSecondByte, HeaderFormsAreReceived: a byte for each case, and the bounds of the 7-bit field. -/
theorem witness_second_byte :
    (running .decB1 Header.zero 0 [0xFE]).phase = .decB1 ∧ (running .decB1 Header.zero 0 [0xFE]).inp = [0xFE] ∧
    125 < (len7 0x7E).toNat ∧ ¬125 < (len7 0xFD).toNat ∧ (0xFD#8).getLsbD 7 = true ∧ len7 0x00 = 0 ∧ len7 0x01 ≠ 0 ∧
    (125#7).toNat ≤ 125 ∧ (125#7) ≠ 0 ∧ (1#7).toNat ≤ 125 := by decide

/-- DecodeReadsLengthByte: a byte that is not the last, and last bytes with and without a key. -/
theorem witness_length_byte :
    (running .decExt ⟨0x82, 0xFE, 0, Key.zero⟩ 0 [0x01]).phase = .decExt ∧
    (running .decExt ⟨0x82, 0xFE, 0, Key.zero⟩ 0 [0x01]).inp = [0x01] ∧
    0 + 1 < extlen 0xFE ∧ ¬1 + 1 < extlen 0xFE ∧ ¬7 + 1 < extlen 0x7F := by decide

/-- DecodeReadsKeyByte: each of the four counts. -/
theorem witness_key_byte :
    ∀ c ∈ [0#4, 1#4, 2#4, 3#4], (running .decKey scenario c [0xDE]).phase = .decKey ∧
      (running .decKey scenario c [0xDE]).inp = [0xDE] ∧ (running .decKey scenario c [0xDE]).cnt = c := by decide

/-- ApplyTransfersOnePayloadByte. -/
theorem witness_payload_byte :
    (running .payload scenario 0 [0x41]).phase = .payload ∧ (running .payload scenario 0 [0x41]).inp = [0x41] := by decide

/-- EndOfInputInHeaderIsTruncatedHeader, EndOfInputInPayloadIsUnexpectedEnd. -/
theorem witness_end_of_input :
    (∀ p ∈ [Phase.decB0, Phase.decB1, Phase.decExt, Phase.decKey], (running p Header.zero 0 []).phase = p ∧
      (running p Header.zero 0 []).inp = []) ∧
    (running .payload scenario 0 []).phase = .payload ∧ (running .payload scenario 0 []).inp = [] := by decide

/-- HeaderFormsAreEmitted, FrameOpcodesAreEmitted. -/
theorem witness_form_emitted :
    (running .encHdr scenario 1 []).phase = .encHdr ∧ (running .encHdr scenario 1 []).cnt = 1 ∧
    (Instr.hdr7m 0x82 2, 0x80#8 ||| (2#7).setWidth 8) ∈
      [(Instr.hdr7m 0x82 2, 0x80#8 ||| (2#7).setWidth 8), (.hdr7u 0x82 2, (2#7).setWidth 8)] ∧
    (running .encHdr scenario 0 []).cnt = 0 := by decide

/-- OperationsOutsideTheirPhasesChangeNothing: a phase outside each list, and a busy block for the commands. -/
theorem witness_other_phases :
    Phase.idle ∉ [Phase.decB0, Phase.decB1, Phase.decExt, Phase.decKey] ∧ Phase.payload ∉ [Phase.decB0, Phase.encHdr] ∧
    Phase.payload ∉ [Phase.decB1, Phase.encHdr] ∧ (Instr.text 8).row.carrier = .b0 ∧ (Instr.hdr16m 0).row.carrier = .hdr ∧
    (Instr.unmask false false false).row.carrier = .ctrl ∧ (running .payload scenario 0 []).flags.busy = true := by decide

/-- SequencerInstructionsKeepParameters, EventFlagsAreSticky (an event flag and `DONE` that are set), PhaseGraphIsComplete,
MarkerDiagnosticChangesNothingElse. -/
theorem witness_sequencer_instruction :
    Instr.apply.row.carrier ≠ .ctrl ∧
    (nextState? (exec .apply (running .payload scenario 0 []))).map (fun t => t.phase) = some .idle ∧
    flagOf .malformedOpcodeOrFlags
      { running .payload scenario 0 [] with flags := { Flags.zero with busy := true, dMalformed := true, done := true } }.flags =
        true := by decide

/-- OutputIsAppendOnly, InputIsConsumedInOrder, HeaderComesBeforePayload, RunningOperationIgnoresParameters: steps that take
a payload byte, a header byte, and emit one. -/
theorem witness_steps :
    (∀ s ∈ [seqTurnOf true true (running .payload scenario 0 [0x41]), seqTurnOf true true (running .decKey scenario 0 [0x41]),
        seqTurnOf true true (running .encHdr scenario 3 [])],
      currentTurn s = .seq true true ∧ (nextState? (step s)).isSome = true ∧
        (match fetch s with | .line _ => false | .run _ => true | .rest => true) = true) := by decide

/-- AtMostOneEventPerStep: a step that raises an event. -/
theorem witness_event :
    flagOf .malformedOpcodeOrFlags (seqTurnOf true true (running .decB0 Header.zero 0 [0])).flags = false ∧
    (nextState? (step (seqTurnOf true true (running .decB0 Header.zero 0 [0])))).map
      (fun t => flagOf .malformedOpcodeOrFlags t.flags) = some true := by decide

/-- EveryControlValueIsAccepted: a command each way and a parameter update. -/
theorem witness_control_writes :
    (∀ v : Word, currentTurn (hostTurn (.wr 0x00 v) (idle true [])) = .host ∧
      (hostTurn (.wr 0x00 v) (idle true [])).host = [.wr 0x00 v]) ∧
    ((0x01#32).getLsbD 0 = true ∧ (0x01#32).getLsbD 1 = false) ∧ ((0x03#32).getLsbD 0 = true ∧ (0x03#32).getLsbD 1 = true) ∧
    (0xFFFFFFFE#32).getLsbD 0 = false := ⟨fun _ => ⟨rfl, rfl⟩, by decide, by decide, by decide⟩

/-- RegisterReadHasNoSideEffectAndWaitPollsBusy, ResetSetsTheBlockAndKeepsTheStreams. -/
theorem witness_host_lines :
    currentTurn (hostTurn (.rd 0x04) (running .payload scenario 0 [])) = .host ∧
    (hostTurn (.rd 0x04) (running .payload scenario 0 [])).host = [.rd 0x04] ∧
    currentTurn (hostTurn .wait (running .payload scenario 0 [])) = .host ∧
    (hostTurn .wait (running .payload scenario 0 [])).host = [.wait] ∧
    currentTurn (hostTurn .reset (running .payload scenario 0 [])) = .host ∧
    (hostTurn .reset (running .payload scenario 0 [])).host = [.reset] := by decide

/-- StepRunsTheDecodedInstruction, the command. -/
theorem witness_step_command :
    currentTurn (hostTurn (.wr 0x00 0x1D) (idle false [])) = .host ∧
    (hostTurn (.wr 0x00 0x1D) (idle false [])).host = [.wr 0x00 0x1D] ∧
    Sys2Proof.decode .ctrl 0x1D = .ok (.mask true true true) := ⟨by decide, by decide, rfl⟩

/-- StepRunsTheDecodedInstruction, a first and a second byte received: by a willing source, and by one at its end of stream
that is asked again. -/
theorem witness_step_received :
    currentTurn (seqTurnOf true false (running .decB0 Header.zero 0 [0x82])) = .seq true false ∧
    (true || (running .decB0 Header.zero 0 [0x82]).inEos) = true ∧
    Sys2Proof.decode .b0 ((0x82#8).setWidth 32) = .ok (.binary 8) ∧
    Sys2Proof.decode .hdr (hdrWord 0x82 0xFF) = .ok (.hdr64m 0x82) := ⟨by decide, by decide, rfl, rfl⟩

/-- StepRunsTheDecodedInstruction, a first and a second byte emitted. -/
theorem witness_step_emitted :
    currentTurn (seqTurnOf false true (running .encHdr scenario 0 [])) = .seq false true ∧
    (running .encHdr scenario 0 []).phase = .encHdr ∧ (running .encHdr scenario 1 []).cnt = 1 ∧
    Sys2Proof.decode .b0 (scenario.b0.setWidth 32) = .ok (.binary 8) ∧
    Sys2Proof.decode .hdr (hdrWord scenario.b0 scenario.b1) = .ok (.hdr7m 0x82 2) :=
  ⟨by decide, by decide, by decide, rfl, rfl⟩

/-- SequencerStepIsTheOperationOfItsPhase, PortsAgreeWithSteps: the payload with a byte on offer, and at its end without a
sink. -/
theorem witness_enabled_steps :
    currentTurn (seqTurnOf true false (running .payload scenario 0 [])) = .seq true false ∧
    (running .payload scenario 0 []).inp = [] ∧
    (nextState? (step (seqTurnOf true false (running .payload scenario 0 [])))).isSome = true ∧
    currentTurn (seqTurnOf true true (running .payload scenario 0 [0x41])) = .seq true true := by decide

/-- DisabledStepsChangeNothing, first clause: the idle sequencer and each way to wait. -/
theorem witness_disabled_steps :
    (currentTurn (seqTurnOf true true (idle false [])) = .seq true true ∧ (seqTurnOf true true (idle false [])).phase = .idle) ∧
    Waits (seqTurnOf true false (running .encHdr scenario 0 [])) true false ∧
    Waits (seqTurnOf false true (running .decKey scenario 0 [0x41])) false true ∧
    Waits (seqTurnOf true false (running .payload scenario 0 [0x41])) true false := by decide

/-- DisabledStepsChangeNothing, second clause: a source that is never willing, under a host that polls. -/
def neverWilling : State :=
  { running .decKey scenario 0 [0x41] with cycle := [.seq false true, .host], host := [.wr 0x00 0x01, .wait] }

theorem witness_waits_for_ever :
    neverWilling.flags.busy = true ∧ neverWilling.cycle ≠ [] ∧
    (∀ src snk : Bool, .seq src snk ∈ neverWilling.turns ++ neverWilling.cycle → Waits neverWilling src snk) ∧
    ∀ l ∈ neverWilling.host, l ≠ .reset ∧ l ≠ .feedBack ∧ ∀ bytes, l ≠ .input bytes := by
  refine ⟨by decide, by decide, by decide, ?_⟩
  simp [neverWilling]

/-- R171: the schedule repeats after its last turn, and the operation is where it was. -/
theorem test_cycle_repeats :
    (nextState? (runSteps 3 neverWilling)).map (fun t => (currentTurn t, t.phase, t.inp)) =
      some (.host, .decKey, [0x41]) := by decide

/-- StepsDoNotStop, OutputIsAppendOnly, HeaderComesBeforePayload: the line `IN = OUT` on an idle block, and on a busy one. -/
theorem witness_fed_back :
    currentTurn (hostTurn .feedBack { idle false [2] with out := [1] }) = .host ∧
    (hostTurn .feedBack { idle false [2] with out := [1] }).host = [.feedBack] ∧
    fetch (hostTurn .feedBack { idle false [2] with out := [1] }) = .line .feedBack ∧
    (nextState? (step (hostTurn .feedBack { idle false [2] with out := [1] }))).map (fun t => (t.inp, t.out)) =
      some ([1], []) ∧
    fetch (hostTurn .feedBack (running .payload scenario 0 [])) = .line .feedBack ∧
    (nextState? (step (hostTurn .feedBack (running .payload scenario 0 [])))).isSome = false := by decide

/-- R97, R93: the lines of the round trip, Text, with the values the spec gives for `CTRL`. -/
theorem test_round_trip_lines :
    pseudoRoundTrip [0x41, 0x42] ⟨0xDE, 0xAD, 0xBE, 0xEF⟩ false =
      [.input [0x41, 0x42], .wr 0x08 2, .wr 0x0C 0, .wr 0x10 0xDEADBEEF, .wr 0x00 0x19, .wait,
        .feedBack, .wr 0x00 0x03, .wait] := by decide

/-- StepsDoNotStop, the line `IN = <bytes>` on an idle block. -/
theorem witness_input_connected :
    currentTurn (hostTurn (.input [1]) (idle false [2])) = .host ∧
    (hostTurn (.input [1]) (idle false [2])).host = [.input [1]] ∧
    (hostTurn (.input [1]) (idle false [2])).flags.busy = false ∧
    (nextState? (step (hostTurn (.input [1]) (idle false [2])))).map (fun t => (t.inp, t.host)) = some ([1], []) := by decide

/-- StartForgetsTheLastOperation. -/
theorem witness_start :
    (Instr.mask true true true).row.carrier = .ctrl ∧ (idle false []).flags.busy = false ∧ Flags.zero.busy = false := by decide

/-- A running operation in the middle of its key, under a schedule that is willing once in every round. -/
def inItsKey : State :=
  { running .decKey ⟨0x82, 0x82, 2, ⟨0xDE, 0, 0, 0⟩⟩ 1 [0xAD] with
    ctrl := ⟨true, true, false, true⟩, turns := [.seq false false], cycle := [.seq true true, .seq false true] }

/-- StepKeepsTheInvariant, OperationsTerminate; and StepsDoNotStop: it takes a step. -/
theorem witness_invariant :
    Inv inItsKey ∧ inItsKey.flags.busy = true ∧ EventuallyWilling inItsKey ∧ (nextState? (step inItsKey)).isSome = true :=
  ⟨⟨by decide, by decide, by decide, by decide, by decide, by decide, by decide⟩, by decide, by decide, by decide⟩

/-- OperationsTerminate, without a schedule. -/
theorem witness_unscheduled : EventuallyWilling { inItsKey with turns := [], cycle := [] } := by decide

/-- StepsDoNotStop, the line the platform may not run: it is refused. -/
theorem witness_input_refused :
    fetch (hostTurn (.input [1]) (running .payload scenario 0 [])) = .line (.input [1]) ∧
    (nextState? (step (hostTurn (.input [1]) (running .payload scenario 0 [])))).isSome = false := by decide

/-- IndexFaultsOnlyOutOfRange: both sides of each bound. -/
theorem witness_index_faults :
    (running .encHdr scenario 6 []).phase = .encHdr ∧ hdrlen scenario.b1 = 6 ∧
    (nextState? (exec .encode (running .encHdr scenario 6 []))).isSome = false ∧
    (nextState? (exec .encode (running .encHdr scenario 5 []))).isSome = true ∧
    (running .decKey scenario 4 [1]).inp ≠ [] ∧
    (nextState? (exec .decode (running .decKey scenario 4 [1]))).isSome = false ∧
    (nextState? (exec .decode (running .decKey scenario 3 [1]))).isSome = true ∧
    hdrlen (running .encHdr scenario 6 []).hdr.b1 ≤ (running .encHdr scenario 6 []).cnt.toNat ∧
    4 ≤ (running .decKey scenario 4 [1]).cnt.toNat := by decide

/-- MaskRunsEndAsTheWholeFunction: an unmasked frame of one byte (three steps, one of them waiting for the sink first). -/
theorem witness_mask_run :
    (idle true [0x41]).flags.busy = false ∧
    (∀ u ∈ ([.seq true false, .seq true true, .seq false true, .seq true true] : List Turn), seqTurn u = true) ∧
    ((nextState? (exec (.mask true true false)
        { idle true [0x41] with len := 1, turns := [.seq true false, .seq true true, .seq false true, .seq true true] })).bind
      (fun s1 => nextState? (runSteps 4 s1))).map (fun t => (t.phase, t.out)) = some (.idle, [0x82, 0x01, 0x41]) := by decide

/-- UnmaskRunsEndAsTheWholeFunction: a frame that ends in its second byte. -/
theorem witness_unmask_run :
    ((nextState? (exec (.unmask true true true) { idle false [0x82] with turns := [.seq true false, .seq true false] })).bind
      (fun s1 => nextState? (runSteps 2 s1))).map (fun t => (t.phase, t.flags.eTrunc)) = some (.idle, true) := by decide

/-- SuccessfulOperationStepCount, both clauses. -/
theorem witness_step_count :
    ((idle true [0x41]).flags.busy = false ∧ AlwaysWilling (idle true [0x41]) ∧
      AlwaysWilling { idle true [0x41] with turns := [.seq true true], cycle := [.seq true true] } ∧
      ({ idle true [0x41] with len := 1 }).len.toNat ≤ ({ idle true [0x41] with len := 1 }).inp.length ∧
      (nextState? (exec (.mask true false false) { idle true [0x41] with len := 1 })).isSome = true) ∧
    ((decodeHeader (params true) [0x82, 0x01, 0x41]).truncated = false ∧
      (decodeHeader (params true) [0x82, 0x01, 0x41]).hdr.len.toNat ≤
        (decodeHeader (params true) [0x82, 0x01, 0x41]).rest.length ∧
      (nextState? (exec (.unmask true false false) (idle true [0x82, 0x01, 0x41]))).isSome = true) := by decide

/-- UnmaskOfMaskGivesThePayload: both runs exist, for an unmasked frame of one byte. -/
theorem witness_round_trip :
    (AlwaysWilling (idle true [0x41]) ∧ (idle true [0x41]).out = [] ∧ (1#64).toNat = (idle true [0x41]).inp.length ∧ 0x81#8 ∈ (params true).expectedB0 ∧
      0x82#8 ∈ (params true).expectedB0) ∧
    ((nextState? (exec (.mask true false false) { idle true [0x41] with len := 1 })).bind
      (fun s1 => (nextState? (runSteps 3 s1)).map (fun t => (hdrlen s1.hdr.b1 + 1, t.out)))) =
        some (3, [0x82, 0x01, 0x41]) ∧
    ((nextState? (exec (.unmask false false false) (idle true [0x82, 0x01, 0x41]))).bind
      (fun u1 => nextState? (runSteps 3 u1))).map (fun u => (u.out, u.flags.done)) = some ([0x41], true) := by decide

end Sys2Proof.Tests
end

section
/-! What a sequencer instruction can do to the state, said once: the receiving steps in closed form, and one inversion of
`exec` over all rows of the table that are no command. -/

namespace Sys2Proof.Machine

/-! ### The receiving steps -/

/-- The first byte is stored and the phase goes on; the marker test shows in its flag only (R157, R201). -/
theorem receiveB0_eq (b : Byte) (s : State) :
    receiveB0 b s =
      { s with
        hdr := { s.hdr with b0 := b }, phase := .decB1
        flags := { s.flags with dMalformed := s.flags.dMalformed || !markerOk s.cfg b } } := by
  cases h : markerOk s.cfg b <;> simp [receiveB0, raise, setFlag, h]

theorem receiveB1_cases (b : Byte) (s : State) :
    ((len7 b).toNat ≤ 125 ∧
      receiveB1 b s = keyStep { s with hdr := { s.hdr with b1 := b, len := (len7 b).setWidth 64 } }) ∨
    (125 < (len7 b).toNat ∧
      receiveB1 b s = { s with hdr := { s.hdr with b1 := b, len := 0 }, cnt := 0, phase := .decExt }) := by
  unfold receiveB1
  split
  · exact .inl ⟨‹_›, rfl⟩
  · exact .inr ⟨by omega, rfl⟩

theorem receiveExt_cases (b : Byte) (s : State) :
    (s.cnt.toNat + 1 < extlen s.hdr.b1 ∧
      receiveExt b s = { s with hdr := { s.hdr with len := accumulate s.hdr.len b }, cnt := s.cnt + 1 }) ∨
    (extlen s.hdr.b1 ≤ s.cnt.toNat + 1 ∧
      receiveExt b s = keyStep { s with hdr := { s.hdr with len := accumulate s.hdr.len b }, cnt := 0 }) := by
  unfold receiveExt
  split
  · exact .inl ⟨‹_›, rfl⟩
  · exact .inr ⟨by omega, rfl⟩

/-- The state with the next byte of the key stored (R160). -/
def storeKeyByte (b : Byte) (s : State) : State :=
  { s with hdr := { s.hdr with key := keySet s.hdr.key (s.cnt.setWidth 2) b } }

theorem receiveKey_cases {b : Byte} {s t : State} (h : receiveKey b s = .next t) :
    (s.cnt.toNat + 1 < 4 ∧ t = { storeKeyByte b s with cnt := s.cnt + 1 }) ∨
    (s.cnt.toNat + 1 = 4 ∧ t = payStart { storeKeyByte b s with cnt := 0 }) := by
  unfold receiveKey at h
  split at h
  · injection h with h
    exact .inl ⟨‹_›, h.symm⟩
  · split at h
    · injection h with h
      exact .inr ⟨‹_›, h.symm⟩
    · cases h

/-! ### All sequencer instructions at once -/

/-- The phases in which a header is read (R157 to R160). -/
def headerPhase (p : Phase) : Prop := p ∈ [Phase.decB0, Phase.decB1, Phase.decExt, Phase.decKey]

/-- What a sequencer instruction can do to `s`, whichever row of the table it is run as (R154 to R162, log 10, log 25). -/
inductive SeqEffect (s : State) : State → Prop
  | stay : SeqEffect s s
  | emit (b : Byte) : s.phase = .encHdr → SeqEffect s (emitHeaderByte b s)
  | truncated : headerPhase s.phase → s.inp = [] → SeqEffect s (raise .truncatedHeader s)
  | endOfStream : s.phase = .payload → s.inp = [] → SeqEffect s (raise .unexpectedEndOfStream s)
  | firstByte (x b : Byte) (rest : List Byte) : s.phase = .decB0 → s.inp = x :: rest →
      SeqEffect s (receiveB0 b { s with inp := rest })
  | secondByte (x b : Byte) (rest : List Byte) : s.phase = .decB1 → s.inp = x :: rest →
      SeqEffect s (receiveB1 b { s with inp := rest })
  | lengthByte (b : Byte) (rest : List Byte) : s.phase = .decExt → s.inp = b :: rest →
      SeqEffect s (receiveExt b { s with inp := rest })
  | keyByte (b : Byte) (rest : List Byte) (t : State) : s.phase = .decKey → s.inp = b :: rest →
      receiveKey b { s with inp := rest } = .next t → SeqEffect s t
  | payloadByte (b : Byte) (rest : List Byte) : s.phase = .payload → s.inp = b :: rest →
      SeqEffect s (payAdvance (outWrite (applyByte b s.pos s.hdr.key) { s with inp := rest }))

theorem execEncode_effect {s t : State} (h : execEncode s = .next t) : SeqEffect s t := by
  unfold execEncode at h
  split at h
  · split at h
    · injection h with h
      exact h ▸ .emit _ ‹_›
    · cases h
  · injection h with h
    exact h ▸ .stay

/-- A reading step of a header phase is a truncated header at the end of the input, else what `k` does with the byte. -/
theorem readHeader_effect {k : Byte → State → Result} {s t : State} (hp : headerPhase s.phase)
    (hk : ∀ b rest, s.inp = b :: rest → k b { s with inp := rest } = .next t → SeqEffect s t)
    (h : readOr .truncatedHeader k s = .next t) : SeqEffect s t := by
  obtain ⟨hi, rfl⟩ | ⟨b, rest, hi, hb⟩ := readOr_cases h
  · exact .truncated hp hi
  · exact hk b rest hi hb

theorem execDecode_effect {s t : State} (h : execDecode s = .next t) : SeqEffect s t := by
  unfold execDecode at h
  split at h
  case h_1 hp =>
    refine readHeader_effect (by simp [headerPhase, hp]) (fun b rest hi hb => ?_) h
    injection hb with hb
    exact hb ▸ .firstByte b b rest hp hi
  case h_2 hp =>
    refine readHeader_effect (by simp [headerPhase, hp]) (fun b rest hi hb => ?_) h
    injection hb with hb
    exact hb ▸ .secondByte b b rest hp hi
  case h_3 hp =>
    refine readHeader_effect (by simp [headerPhase, hp]) (fun b rest hi hb => ?_) h
    injection hb with hb
    exact hb ▸ .lengthByte b rest hp hi
  case h_4 hp =>
    exact readHeader_effect (by simp [headerPhase, hp]) (fun b rest hi hb => .keyByte b rest t hp hi hb) h
  case h_5 =>
    injection h with h
    exact h ▸ .stay

theorem execApply_effect {s t : State} (h : execApply s = .next t) : SeqEffect s t := by
  unfold execApply at h
  split at h
  · obtain ⟨hi, rfl⟩ | ⟨b, rest, hi, hk⟩ := readOr_cases h
    · exact .endOfStream ‹_› hi
    · injection hk with hk
      exact hk ▸ .payloadByte b rest ‹_› hi
  · injection h with h
    exact h ▸ .stay

/-- The emitting half of `passB0` and `passB1`: the byte goes out at its own index and at no other. -/
theorem emitAt_effect {b : Byte} {c : BitVec 4} {s t : State} (hp : s.phase = .encHdr)
    (h : (if s.cnt = c then .next (emitHeaderByte b s) else .next s : Result) = .next t) : SeqEffect s t := by
  split at h <;> injection h with h
  · exact h ▸ .emit b hp
  · exact h ▸ .stay

theorem passB0_effect {b : Byte} {s t : State} (h : passB0 b s = .next t) : SeqEffect s t := by
  unfold passB0 at h
  split at h
  · refine readHeader_effect (by simp [headerPhase, *]) (fun x rest hi hb => ?_) h
    injection hb with hb
    exact hb ▸ .firstByte x b rest ‹_› hi
  · exact emitAt_effect ‹_› h
  · injection h with h
    exact h ▸ .stay

theorem passB1_effect {b : Byte} {s t : State} (h : passB1 b s = .next t) : SeqEffect s t := by
  unfold passB1 at h
  split at h
  · refine readHeader_effect (by simp [headerPhase, *]) (fun x rest hi hb => ?_) h
    injection hb with hb
    exact hb ▸ .secondByte x b rest ‹_› hi
  · exact emitAt_effect ‹_› h
  · injection h with h
    exact h ▸ .stay

/-- Every instruction that is no command has one of the effects of `SeqEffect`. -/
theorem exec_seqEffect {i : Instr} {s t : State} (hc : i.row.carrier ≠ .ctrl) (h : exec i s = .next t) :
    SeqEffect s t := by
  cases i with
  | mask _ _ _ | unmask _ _ _ => exact absurd rfl hc
  | encode => exact execEncode_effect h
  | decode => exact execDecode_effect h
  | apply => exact execApply_effect h
  | hdr7m _ _ | hdr7u _ _ | hdr16m _ | hdr16u _ | hdr64m _ | hdr64u _ => exact passB1_effect h
  | text _ | binary _ => exact passB0_effect h

/-- An idle sequencer has no step (R154). -/
theorem SeqEffect.eq_of_idle {s t : State} (hp : s.phase = .idle) (e : SeqEffect s t) : t = s := by
  cases e with
  | stay => rfl
  | truncated h _ => simp [headerPhase, hp] at h
  | emit _ h | endOfStream h _ | firstByte _ _ _ h _ | secondByte _ _ _ h _ | lengthByte _ _ h _ | keyByte _ _ _ h _ _
  | payloadByte _ _ h _ => simp [hp] at h

/-- The commands are the two rows on the `CTRL` carrier (R93). -/
theorem command_cases {i : Instr} (h : i.row.carrier = .ctrl) :
    ∃ o k m, i = .mask o k m ∨ i = .unmask o k m := by
  cases i with
  | mask o k m => exact ⟨o, k, m, .inl rfl⟩
  | unmask o k m => exact ⟨o, k, m, .inr rfl⟩
  | encode | decode | apply => cases h
  | hdr7m _ _ | hdr7u _ _ | hdr16m _ | hdr16u _ | hdr64m _ | hdr64u _ => cases h
  | text _ | binary _ => cases h

/-- A value written to `CTRL` is a command or nothing (R93). -/
theorem decodeCtrl_carrier {v : Word} {i : Instr} (h : decodeCtrl v = .ok i) : i.row.carrier = .ctrl := by
  unfold decodeCtrl at h
  split at h
  · split at h <;> injection h with h <;> exact h ▸ rfl
  · cases h

/-- A command while an operation runs is ignored whole (R183). -/
theorem exec_command_busy {i : Instr} {s : State} (hc : i.row.carrier = .ctrl) (hb : s.flags.busy = true) :
    exec i s = .next s := by
  obtain ⟨o, k, m, rfl | rfl⟩ := command_cases hc
  · simp [exec, execMask, hb]
  · simp [exec, execUnmask, hb]

end Sys2Proof.Machine
end

section
/-! The invariant phase by phase. `Inv` speaks of all phases at once; here it is what holds of every running operation
(`RunningInv`) and what its phase adds (`PhaseInv`), and each shared transition has one lemma that ends in `Inv`. -/

namespace Sys2Proof.Machine

/-! ### The invariant of a running operation -/

/-- What the invariant says of a running operation in every phase but `IDLE`. -/
structure RunningInv (s : State) : Prop where
  busy : s.flags.busy = true
  done : s.flags.done = false
  eTrunc : s.flags.eTrunc = false
  eEos : s.flags.eEos = false
  diag : s.ctrl.dir = false → s.flags.dMalformed = false ∧ s.flags.dUnmasked = false
  unmaskedKey : maskBit s.hdr.b1 = false → s.hdr.key = Key.zero
  atEos : EosInv s

/-- What the invariant says of an `UNMASK` whose header is being read. -/
structure DecodingInv (s : State) : Prop where
  pos : s.pos = 0
  dir : s.ctrl.dir = true
  dUnmasked : s.flags.dUnmasked = false

/-- What the phase of a running operation adds. -/
def PhaseInv (s : State) : Prop :=
  match s.phase with
  | .idle => False
  | .encHdr => s.cnt.toNat < hdrlen s.hdr.b1 ∧ s.pos = 0 ∧ s.ctrl.dir = false ∧ len7 s.hdr.b1 = len7code s.hdr.len
  | .decB0 => DecodingInv s ∧ s.cnt = 0 ∧ s.hdr = Header.zero
  | .decB1 => DecodingInv s ∧ s.cnt = 0 ∧ s.hdr.b1 = 0 ∧ s.hdr.len = 0 ∧ s.hdr.key = Key.zero
  | .decExt =>
    DecodingInv s ∧ s.cnt.toNat < extlen s.hdr.b1 ∧ s.hdr.len.toNat < 256 ^ s.cnt.toNat ∧ s.hdr.key = Key.zero
  | .decKey =>
    DecodingInv s ∧ s.cnt.toNat < 4 ∧ lengthFits s.hdr.b1 s.hdr.len ∧ maskBit s.hdr.b1 = true ∧
      ∀ b ∈ (keyBytes s.hdr.key).drop s.cnt.toNat, b = 0
  | .payload => s.cnt = 0 ∧ s.pos.toNat < s.hdr.len.toNat ∧ lengthFits s.hdr.b1 s.hdr.len

theorem eosInv_of_inv {s : State} (h : Inv s) : EosInv s := by
  obtain ⟨-, -, -, -, -, -, heos⟩ := h
  exact heos

theorem RunningInv.of_inv {s : State} (h : Inv s) (hp : s.phase ≠ .idle) : RunningInv s := by
  obtain ⟨hbusy, ⟨hflags, -, -, -⟩, -, -, ⟨-, -, hdiag⟩, ⟨hkey, -⟩, heos⟩ := h
  have hb := hbusy.mpr hp
  obtain ⟨hd, ht, he⟩ := hflags hb
  exact ⟨hb, hd, ht, he, hdiag hb, hkey, heos⟩

theorem PhaseInv.of_inv {s : State} (h : Inv s) (hp : s.phase ≠ .idle) : PhaseInv s := by
  obtain ⟨-, ⟨-, -, -, hunm⟩, ⟨hcnt0, hcntE, hcntX, hcntK⟩, ⟨hposP, hpos0, -⟩, ⟨hdirE, hdirD, -⟩,
    ⟨-, hrecE, hrec0, hrec1, hrecX, hrecK, hrecP⟩, -⟩ := h
  have decoding (hd : headerPhase s.phase) : DecodingInv s :=
    ⟨hpos0 (List.mem_cons_of_mem _ hd), hdirD hd, hunm hd⟩
  unfold PhaseInv
  cases hs : s.phase with
  | idle => exact hp hs
  | encHdr => exact ⟨hcntE hs, hpos0 (by simp [hs]), hdirE hs, hrecE hs⟩
  | decB0 => exact ⟨decoding (by simp [headerPhase, hs]), hcnt0 (by simp [hs]), hrec0 hs⟩
  | decB1 => exact ⟨decoding (by simp [headerPhase, hs]), hcnt0 (by simp [hs]), hrec1 hs⟩
  | decExt => exact ⟨decoding (by simp [headerPhase, hs]), hcntX hs, hrecX hs⟩
  | decKey => exact ⟨decoding (by simp [headerPhase, hs]), hcntK hs, hrecK hs⟩
  | payload => exact ⟨hcnt0 (by simp [hs]), hposP hs, hrecP hs⟩

theorem PhaseInv.decoding {s : State} (h : PhaseInv s) (hp : headerPhase s.phase) : DecodingInv s := by
  unfold PhaseInv at h
  cases hs : s.phase with
  | idle | encHdr | payload => simp [headerPhase, hs] at hp
  | decB0 | decB1 | decExt | decKey =>
    simp only [hs] at h
    exact h.1

theorem PhaseInv.encoding {s : State} (h : PhaseInv s) (hp : s.phase = .encHdr) : s.pos = 0 ∧ s.ctrl.dir = false := by
  simp only [PhaseInv, hp] at h
  obtain ⟨-, hpos, hdir, -⟩ := h
  exact ⟨hpos, hdir⟩

theorem PhaseInv.posBelow {s : State} (h : PhaseInv s) (hp : s.phase = .payload) : s.pos.toNat < s.hdr.len.toNat := by
  simp only [PhaseInv, hp] at h
  obtain ⟨-, hpos, -⟩ := h
  exact hpos

theorem PhaseInv.ne_idle {s : State} (h : PhaseInv s) : s.phase ≠ .idle := by
  intro hp
  simp only [PhaseInv, hp] at h

theorem PhaseInv.cntInv {s : State} (h : PhaseInv s) : CntInv s := by
  unfold PhaseInv at h
  cases hs : s.phase <;> simp_all [CntInv]

theorem PhaseInv.recordInv {s : State} (h : PhaseInv s) (hkey : maskBit s.hdr.b1 = false → s.hdr.key = Key.zero) :
    RecordInv s := by
  refine ⟨hkey, fun hp => ?_, fun hp => ?_, fun hp => ?_, fun hp => ?_, fun hp => ?_, fun hp => ?_⟩ <;>
    simp only [PhaseInv, hp] at h
  · obtain ⟨-, -, -, htier⟩ := h
    exact htier
  · obtain ⟨-, -, hzero⟩ := h
    exact hzero
  · obtain ⟨-, -, hrec⟩ := h
    exact hrec
  · obtain ⟨-, -, hrec⟩ := h
    exact hrec
  · obtain ⟨-, -, hrec⟩ := h
    exact hrec
  · obtain ⟨-, -, hfits⟩ := h
    exact hfits

/-- What holds of every running operation and what its phase adds make up the invariant. -/
theorem inv_of_phaseInv {s : State} (hr : RunningInv s) (h : PhaseInv s) : Inv s := by
  obtain ⟨hb, hd, ht, he, hdiag, hkey, heos⟩ := hr
  have hpos0 (hp : s.phase = .encHdr ∨ headerPhase s.phase) : s.pos = 0 :=
    hp.elim (fun hp => (h.encoding hp).1) (fun hp => (h.decoding hp).pos)
  refine ⟨by simp [BusyInv, hb, h.ne_idle], ?flags, h.cntInv, ?pos, ?dir, h.recordInv hkey, heos⟩
  case flags => exact ⟨fun _ => ⟨hd, ht, he⟩, by simp [hd], by simp [ht], fun hp => (h.decoding hp).dUnmasked⟩
  case pos => exact ⟨h.posBelow, fun hp => hpos0 (List.mem_cons.mp hp), by simp [hd], by simp [he], by simp [ht]⟩
  case dir => exact ⟨fun hp => (h.encoding hp).2, fun hp => (h.decoding hp).dir, fun _ => hdiag⟩

end Sys2Proof.Machine
end

section
/-! Header bytes, lengths and counts: the arithmetic the invariant rests on. -/

namespace Sys2Proof.Machine

theorem maskBit_byteB1 (m : Bool) (n : BitVec 7) : maskBit (byteB1 m n) = m := by
  revert m n; decide

theorem len7_byteB1 (m : Bool) (n : BitVec 7) : len7 (byteB1 m n) = n := by
  revert m n; decide

theorem extlen_le (b1 : Byte) : extlen b1 ≤ 8 := by
  unfold extlen
  split_ifs <;> omega

theorem extlen_pos {b1 : Byte} (h : 125 < (len7 b1).toNat) : 0 < extlen b1 := by
  unfold extlen
  split_ifs <;> omega

theorem hdrlen_bounds (b1 : Byte) : 2 ≤ hdrlen b1 ∧ hdrlen b1 ≤ 14 := by
  have := extlen_le b1
  unfold hdrlen keylen
  split_ifs <;> omega

/-- A count below 15 counts on without a carry. -/
theorem cnt_succ_toNat {c : BitVec 4} (h : c.toNat + 1 < 16) : (c + 1).toNat = c.toNat + 1 := by
  bv_omega

theorem pos_succ_toNat {p n : DWord} (h : p.toNat < n.toNat) : (p + 1).toNat = p.toNat + 1 := by
  bv_omega

/-- One more byte of an extended length (R159). -/
theorem accumulate_lt {n : DWord} {c : Nat} (b : Byte) (h : n.toNat < 256 ^ c) :
    (accumulate n b).toNat < 256 ^ (c + 1) := by
  have hshift : (n <<< 8).toNat ≤ n.toNat * 256 := by
    rw [BitVec.toNat_shiftLeft, Nat.shiftLeft_eq]
    exact Nat.mod_le _ _
  have hpow : (256 : Nat) ^ (c + 1) = 2 ^ (8 * (c + 1)) := by rw [pow_mul]; norm_num
  have hbyte : b.toNat < 256 ^ (c + 1) := b.isLt.trans_le (Nat.le_self_pow (by omega) 256)
  rw [accumulate, BitVec.toNat_or, BitVec.toNat_setWidth, hpow]
  refine Nat.or_lt_two_pow ?_ ?_
  · rw [← hpow, pow_succ]; omega
  · rw [← hpow]; exact (Nat.mod_le _ _).trans_lt hbyte

/-- The length a `MASK` encodes agrees with the tier it chose for it (R88). -/
theorem lengthFits_of_len7code {b1 : Byte} {n : DWord} (h : len7 b1 = len7code n) : lengthFits b1 n := by
  unfold lengthFits
  rw [h]
  unfold len7code
  split_ifs with h1 h2 <;> simp <;> omega

/-- A tier 7 length (R127). -/
theorem lengthFits_tier7 {b1 : Byte} (h : (len7 b1).toNat ≤ 125) : lengthFits b1 ((len7 b1).setWidth 64) := by
  refine ⟨fun _ => ?_, fun h6 => by omega⟩
  rw [BitVec.toNat_setWidth]
  omega

/-- An extended length, once all its bytes are read (R128, R129). -/
theorem lengthFits_extended {b1 : Byte} {n : DWord} (h0 : 0 < extlen b1) (hn : n.toNat < 256 ^ extlen b1) :
    lengthFits b1 n := by
  unfold extlen at h0 hn
  split_ifs at h0 hn with h1 h2
  · simp at h0
  · exact ⟨fun h => absurd h h1, fun _ => by omega⟩
  · exact ⟨fun h => absurd h h1, fun h => absurd h h2⟩

/-- Storing byte `CNT` of the key leaves the bytes after it as they were (R160). -/
theorem keyBytes_keySet_drop {k : Key} {c : BitVec 4} (b : Byte) (hc : c.toNat < 4)
    (h : ∀ x ∈ (keyBytes k).drop c.toNat, x = 0) :
    ∀ x ∈ (keyBytes (keySet k (c.setWidth 2) b)).drop (c.toNat + 1), x = 0 := by
  have hdrop : (keyBytes (keySet k (c.setWidth 2) b)).drop (c.toNat + 1) = (keyBytes k).drop (c.toNat + 1) := by
    obtain rfl | rfl | rfl | rfl : c = 0 ∨ c = 1 ∨ c = 2 ∨ c = 3 := by bv_omega
    all_goals rfl
  rw [hdrop, ← List.drop_drop]
  intro x hx
  exact h x (List.mem_of_mem_drop hx)

end Sys2Proof.Machine
end

section
/-! Every step keeps the invariant (R26, R28, R29, R32, R191, R205): one lemma per shared transition, then per effect of a
sequencer instruction, per command and per line of the host. -/

namespace Sys2Proof.Machine

/-! ### Ends of an operation -/

/-- What is left to show of a block between operations: which outcome flags stand together, and what `POS` is with each. -/
theorem inv_of_idle {s : State} (hp : s.phase = .idle) (hb : s.flags.busy = false) (hc : s.cnt = 0)
    (hdone : s.flags.done = true → s.flags.eTrunc = false ∧ s.flags.eEos = false ∧ s.pos = s.hdr.len)
    (htrunc : s.flags.eTrunc = true → s.flags.eEos = false ∧ s.flags.dUnmasked = false ∧ s.pos = 0)
    (hend : s.flags.eEos = true → s.pos.toNat < s.hdr.len.toNat)
    (hkey : maskBit s.hdr.b1 = false → s.hdr.key = Key.zero) (heos : EosInv s) : Inv s := by
  refine ⟨by simp [BusyInv, hb, hp], ?flags, by simp [CntInv, hp, hc], ?pos, by simp [DirInv, hp, hb],
    ⟨hkey, by simp [hp]⟩, heos⟩
  case flags =>
    refine ⟨by simp [hb], fun h => ?_, fun h => ?_, by simp [hp]⟩
    · obtain ⟨ht, he, -⟩ := hdone h
      exact ⟨ht, he⟩
    · obtain ⟨he, hu, -⟩ := htrunc h
      exact ⟨he, hu⟩
  case pos =>
    refine ⟨by simp [hp], by simp [hp], fun h => ?_, hend, fun h => ?_⟩
    · obtain ⟨-, -, hpos⟩ := hdone h
      exact hpos
    · obtain ⟨-, -, hpos⟩ := htrunc h
      exact hpos

/-- An operation ends well when all of its payload was transferred (R164). -/
theorem inv_finish {s : State} (hr : RunningInv s) (hpos : s.pos = s.hdr.len) : Inv (finish s) :=
  inv_of_idle rfl rfl rfl (fun _ => ⟨hr.eTrunc, hr.eEos, hpos⟩) (fun h => by simp [hr.eTrunc] at h)
    (fun h => by simp [hr.eEos] at h) hr.unmaskedKey hr.atEos

/-- A header that ends early ends the operation before any payload (R196). -/
theorem inv_raise_truncatedHeader {s : State} (hr : RunningInv s) (hd : DecodingInv s) :
    Inv (raise .truncatedHeader s) :=
  inv_of_idle rfl rfl rfl (fun h => by simp [raise, setFlag, hr.done] at h)
    (fun _ => ⟨hr.eEos, hd.dUnmasked, hd.pos⟩) (fun h => by simp [raise, setFlag, hr.eEos] at h)
    hr.unmaskedKey hr.atEos

/-- A payload that ends early ends the operation below `H_LEN` (R197). -/
theorem inv_raise_unexpectedEndOfStream {s : State} (hr : RunningInv s) (hpos : s.pos.toNat < s.hdr.len.toNat) :
    Inv (raise .unexpectedEndOfStream s) :=
  inv_of_idle rfl rfl rfl (fun h => by simp [raise, setFlag, hr.done] at h)
    (fun h => by simp [raise, setFlag, hr.eTrunc] at h) (fun _ => hpos) hr.unmaskedKey hr.atEos

/-! ### From the header to the payload -/

theorem inv_payStart {s : State} (hr : RunningInv s) (hfits : lengthFits s.hdr.b1 s.hdr.len) : Inv (payStart s) := by
  obtain ⟨h0, e⟩ | ⟨h0, e⟩ := payStart_cases s <;> rw [e]
  · exact inv_finish { hr with } h0.symm
  · refine inv_of_phaseInv { hr with } ⟨rfl, ?_, hfits⟩
    have : s.hdr.len.toNat ≠ 0 := fun h => h0 (BitVec.eq_of_toNat_eq h)
    exact Nat.pos_of_ne_zero this

theorem inv_keyStep {s : State} (hr : RunningInv s) (hd : DecodingInv s) (hfits : lengthFits s.hdr.b1 s.hdr.len)
    (hkey : s.hdr.key = Key.zero) : Inv (keyStep s) := by
  obtain ⟨hm, e⟩ | ⟨hm, e⟩ := keyStep_cases s <;> rw [e]
  · refine inv_of_phaseInv { hr with } ⟨{ hd with }, Nat.succ_pos 3, hfits, hm, ?_⟩
    simp [hkey, keyBytes, Key.zero]
  · refine inv_payStart { hr with diag := ?_, unmaskedKey := fun _ => rfl } hfits
    intro hdir
    exact absurd (hd.dir.symm.trans hdir) (by decide)

theorem inv_encAdvance {s : State} (hr : RunningInv s) (hp : s.phase = .encHdr) (h : PhaseInv s) :
    Inv (encAdvance s) := by
  have hlen := hdrlen_bounds s.hdr.b1
  simp only [PhaseInv, hp] at h
  obtain ⟨-, hpos, hdir, htier⟩ := h
  obtain ⟨hc, e⟩ | ⟨-, e⟩ := encAdvance_cases s <;> rw [e]
  · refine inv_of_phaseInv { hr with } ?_
    have : (s.cnt + 1).toNat < hdrlen s.hdr.b1 := by rw [cnt_succ_toNat (by omega)]; exact hc
    simpa [PhaseInv, hp] using ⟨this, hpos, hdir, htier⟩
  · exact inv_payStart hr (lengthFits_of_len7code htier)

/-! ### One byte received or transferred -/

/-- Taking a byte leaves the record of the operation alone; a source with a byte has not ended (R56). -/
theorem RunningInv.consume {s : State} {b : Byte} {rest : List Byte} (hr : RunningInv s) (hi : s.inp = b :: rest) :
    RunningInv { s with inp := rest } := by
  refine { hr with atEos := fun he => ?_ }
  have : s.inp = [] := hr.atEos he
  simp [hi] at this

theorem inv_receiveB0 {s : State} (b : Byte) (hr : RunningInv s) (hp : s.phase = .decB0) (h : PhaseInv s) :
    Inv (receiveB0 b s) := by
  simp only [PhaseInv, hp] at h
  obtain ⟨hd, hc, hz⟩ := h
  rw [receiveB0_eq]
  refine inv_of_phaseInv { hr with diag := ?_ } ⟨{ hd with }, hc, ?_⟩
  · intro hdir
    exact absurd (hd.dir.symm.trans hdir) (by decide)
  · simp [hz, Header.zero]

theorem inv_receiveB1 {s : State} (b : Byte) (hr : RunningInv s) (hp : s.phase = .decB1) (h : PhaseInv s) :
    Inv (receiveB1 b s) := by
  simp only [PhaseInv, hp] at h
  obtain ⟨hd, -, -, -, hkey⟩ := h
  obtain ⟨hb, e⟩ | ⟨hb, e⟩ := receiveB1_cases b s <;> rw [e]
  · exact inv_keyStep { hr with unmaskedKey := fun _ => hkey } { hd with } (lengthFits_tier7 hb) hkey
  · exact inv_of_phaseInv { hr with unmaskedKey := fun _ => hkey } ⟨{ hd with }, extlen_pos hb, Nat.one_pos, hkey⟩

theorem inv_receiveExt {s : State} (b : Byte) (hr : RunningInv s) (hp : s.phase = .decExt) (h : PhaseInv s) :
    Inv (receiveExt b s) := by
  have hext := extlen_le s.hdr.b1
  simp only [PhaseInv, hp] at h
  obtain ⟨hd, hc, hlen, hkey⟩ := h
  have hacc := accumulate_lt b hlen
  obtain ⟨hmore, e⟩ | ⟨hlast, e⟩ := receiveExt_cases b s <;> rw [e]
  · refine inv_of_phaseInv { hr with } ?_
    have hcnt : (s.cnt + 1).toNat = s.cnt.toNat + 1 := cnt_succ_toNat (by omega)
    simp only [PhaseInv, hp, hcnt]
    exact ⟨{ hd with }, hmore, hacc, hkey⟩
  · refine inv_keyStep { hr with } { hd with } (lengthFits_extended (Nat.zero_lt_of_lt hc) ?_) hkey
    have hall : s.cnt.toNat + 1 = extlen s.hdr.b1 := by omega
    rwa [hall] at hacc

theorem inv_receiveKey {s t : State} {b : Byte} (hr : RunningInv s) (hp : s.phase = .decKey) (h : PhaseInv s)
    (hk : receiveKey b s = .next t) : Inv t := by
  simp only [PhaseInv, hp] at h
  obtain ⟨hd, hc, hfits, hm, hzero⟩ := h
  have hmask : maskBit s.hdr.b1 = false → keySet s.hdr.key (s.cnt.setWidth 2) b = Key.zero := by simp [hm]
  obtain ⟨hmore, rfl⟩ | ⟨-, rfl⟩ := receiveKey_cases hk
  · refine inv_of_phaseInv { hr with unmaskedKey := hmask } ?_
    have hcnt : (s.cnt + 1).toNat = s.cnt.toNat + 1 := cnt_succ_toNat (by omega)
    simp only [PhaseInv, storeKeyByte, hp, hcnt]
    exact ⟨{ hd with }, hmore, hfits, hm, keyBytes_keySet_drop b hc hzero⟩
  · exact inv_payStart { hr with unmaskedKey := hmask } hfits

theorem inv_payAdvance {s : State} (hr : RunningInv s) (hp : s.phase = .payload) (h : PhaseInv s) :
    Inv (payAdvance s) := by
  simp only [PhaseInv, hp] at h
  obtain ⟨hc, hpos, hfits⟩ := h
  obtain ⟨hend, e⟩ | ⟨hmore, e⟩ := payAdvance_cases s <;> rw [e]
  · exact inv_finish { hr with } hend
  · refine inv_of_phaseInv { hr with } ?_
    have hne : (s.pos + 1).toNat ≠ s.hdr.len.toNat := fun h => hmore (BitVec.eq_of_toNat_eq h)
    have hlt : (s.pos + 1).toNat < s.hdr.len.toNat := by
      rw [pos_succ_toNat hpos] at hne ⊢
      omega
    simp only [PhaseInv, hp]
    exact ⟨hc, hlt, hfits⟩

/-! ### Instructions -/

/-- The phase adds nothing about the two streams. -/
theorem PhaseInv.of_streams {s : State} (h : PhaseInv s) (inp out : List Byte) :
    PhaseInv { s with inp := inp, out := out } := by
  unfold PhaseInv at h ⊢
  cases hs : s.phase with
  | idle => simp only [hs] at h
  | encHdr | payload => simpa only [hs] using h
  | decB0 | decB1 | decExt | decKey =>
    simp only [hs] at h ⊢
    exact ⟨{ h.1 with }, h.2⟩

/-- A sequencer instruction keeps the invariant, whatever byte it takes the one on offer to be. -/
theorem SeqEffect.keeps_inv {s t : State} (h : Inv s) (e : SeqEffect s t) : Inv t := by
  by_cases hp : s.phase = .idle
  · rwa [e.eq_of_idle hp]
  have hr := RunningInv.of_inv h hp
  have hph := PhaseInv.of_inv h hp
  cases e with
  | stay => exact h
  | emit b he => exact inv_encAdvance { hr with } he (hph.of_streams _ _)
  | truncated hd _ => exact inv_raise_truncatedHeader hr (hph.decoding hd)
  | endOfStream hpay _ => exact inv_raise_unexpectedEndOfStream hr (hph.posBelow hpay)
  | firstByte x b rest h0 hi => exact inv_receiveB0 b (hr.consume hi) h0 (hph.of_streams _ _)
  | secondByte x b rest h1 hi => exact inv_receiveB1 b (hr.consume hi) h1 (hph.of_streams _ _)
  | lengthByte b rest hx hi => exact inv_receiveExt b (hr.consume hi) hx (hph.of_streams _ _)
  | keyByte b rest t hk hi hrec => exact inv_receiveKey (hr.consume hi) hk (hph.of_streams _ _) hrec
  | payloadByte b rest hpay hi => exact inv_payAdvance { hr.consume hi with } hpay (hph.of_streams _ _)

/-- An accepted START begins an operation that meets the invariant (R152, R153, R182). -/
theorem RunningInv.of_start {s : State} (d o k m : Bool) (h : EosInv s) : RunningInv (start d o k m s) :=
  ⟨rfl, rfl, rfl, rfl, fun _ => ⟨rfl, rfl⟩, fun _ => rfl, h⟩

theorem maskKey_unmasked {s : State} (h : maskEnabled s = false) : maskKey s = Key.zero := by
  simp [maskKey, h]

theorem inv_mask {s t : State} {o k m : Bool} (h : Inv s) (he : execMask o k m s = .next t) : Inv t := by
  unfold execMask at he
  split at he <;> injection he with he <;> subst he
  · exact h
  · have heos := eosInv_of_inv h
    refine inv_of_phaseInv { RunningInv.of_start false o k m heos with unmaskedKey := fun hm => ?_ } ?_
    · rw [loadHeader_hdr, maskBit_byteB1] at hm
      exact maskKey_unmasked hm
    · refine ⟨?_, rfl, rfl, ?_⟩
      · exact Nat.lt_of_lt_of_le (Nat.succ_pos 1) (hdrlen_bounds _).1
      · rw [loadHeader_hdr, len7_byteB1]

theorem inv_unmask {s t : State} {o k m : Bool} (h : Inv s) (he : execUnmask o k m s = .next t) : Inv t := by
  unfold execUnmask at he
  split at he <;> injection he with he <;> subst he
  · exact h
  · have heos := eosInv_of_inv h
    exact inv_of_phaseInv { RunningInv.of_start true o k m heos with } ⟨⟨rfl, rfl, rfl⟩, rfl, rfl⟩

/-- Every instruction of the table keeps the invariant. -/
theorem exec_keeps_inv {i : Instr} {s t : State} (h : Inv s) (he : exec i s = .next t) : Inv t := by
  by_cases hc : i.row.carrier = .ctrl
  · obtain ⟨o, k, m, rfl | rfl⟩ := command_cases hc
    · exact inv_mask h he
    · exact inv_unmask h he
  · exact (exec_seqEffect hc he).keeps_inv h

/-! ### Turns and lines of the host -/

/-- The invariant sees nothing of the state but the block's own progress, the direction of a running operation and whether
a source that has ended has a byte. -/
theorem inv_of_same_progress {s t : State} (h : Inv s) (hf : t.flags = s.flags) (hp : t.phase = s.phase)
    (hc : t.cnt = s.cnt) (hpos : t.pos = s.pos) (hh : t.hdr = s.hdr) (hd : s.flags.busy = true → t.ctrl.dir = s.ctrl.dir)
    (he : EosInv t) : Inv t := by
  obtain ⟨hbusy, hflag, hcnt, hposi, ⟨hdirE, hdirD, hdiag⟩, hrec, -⟩ := h
  have hrun (h : s.phase ≠ .idle) : t.ctrl.dir = s.ctrl.dir := hd (hbusy.mpr h)
  refine ⟨?_, ?_, ?_, ?_, ⟨fun h => ?_, fun h => ?_, fun hb h => ?_⟩, ?_, he⟩
  · rwa [BusyInv, hf, hp]
  · rwa [FlagInv, hf, hp]
  · rwa [CntInv, hp, hc, hh]
  · rwa [PosInv, hp, hpos, hh, hf]
  · rw [hp] at h
    rw [hrun (by simp [h]), hdirE h]
  · rw [hp] at h
    rw [hrun (by rintro e; simp [e] at h), hdirD h]
  · rw [hf] at hb ⊢
    exact hdiag hb (hd hb ▸ h)
  · rwa [RecordInv, hp, hc, hh]

theorem inv_advance {s : State} (h : Inv s) : Inv (advance s) := by
  have heos := eosInv_of_inv h
  refine inv_of_same_progress h (by simp) (by simp) (by simp) (by simp) (by simp) (by simp) ?_
  unfold advance
  split
  · exact heos
  · intro he
    obtain he | he := Bool.or_eq_true_iff.mp he
    · exact heos he
    · exact List.isEmpty_iff.mp (Bool.and_eq_true_iff.mp he).2

theorem inv_regWrite {s : State} (off : Nat) (v : Word) (h : Inv s) : Inv (regWrite off v s) := by
  have heos := eosInv_of_inv h
  by_cases hb : s.flags.busy = true
  · simpa [regWrite, hb] using h
  · rw [regWrite, if_neg hb]
    split_ifs <;> exact inv_of_same_progress h rfl rfl rfl rfl rfl (fun hb' => absurd hb' hb) heos

theorem inv_hostInput {s t : State} {bytes : List Byte} (h : Inv s) (he : hostInput bytes s = .next t) : Inv t := by
  obtain ⟨-, e⟩ | ⟨-, e⟩ := hostInput_cases bytes s <;> rw [e] at he
  · cases he
  · injection he with he
    exact he ▸ inv_of_same_progress h rfl rfl rfl rfl rfl (fun _ => rfl) (by simp [EosInv])

/-- Reset gives the block the state it is in at first, which meets the invariant (R36, R220). -/
theorem inv_blockReset {s : State} (h : EosInv s) : Inv (blockReset s) :=
  inv_of_idle rfl rfl rfl (by simp [Flags.zero]) (by simp [Flags.zero]) (by simp [Flags.zero]) (fun _ => rfl) h

theorem inv_hostLine {s t : State} {l : HostLine} (h : Inv s) (he : hostLine l s = .next t) : Inv t := by
  have heos := eosInv_of_inv h
  cases l with
  | wr off v =>
    injection he with he
    exact he ▸ inv_regWrite off v h
  | rd off =>
    injection he with he
    exact he ▸ inv_of_same_progress h rfl rfl rfl rfl rfl (fun _ => rfl) heos
  | wait =>
    injection he with he
    rw [← he, hostWait]
    split <;> exact inv_of_same_progress h rfl rfl rfl rfl rfl (fun _ => rfl) heos
  | reset =>
    injection he with he
    exact he ▸ inv_blockReset heos
  | input bytes => exact inv_hostInput h he
  | feedBack =>
    have hsink : Inv { s with out := [] } := inv_of_same_progress h rfl rfl rfl rfl rfl (fun _ => rfl) heos
    exact inv_hostInput hsink he

/-! ### The obligations -/

/-- Settles O52: a step takes its turn and then is an instruction, a line of the host or nothing, and each of these keeps
the invariant. -/
theorem stepKeepsTheInvariant : Obligations.StepKeepsTheInvariant := by
  intro s t h hs
  have ha := inv_advance h
  obtain ⟨_, _, -, -, he⟩ | rfl | ⟨_, _, -, -, he⟩ | ⟨_, _, -, -, -, hl⟩ := step_cases hs
  · exact exec_keeps_inv ha he
  · exact ha
  · exact exec_keeps_inv ha he
  · exact inv_hostLine ha hl

/-- Settles O53: the state after reset is one that `blockReset` leaves. -/
theorem resetMeetsTheInvariant : Obligations.ResetMeetsTheInvariant :=
  inv_blockReset (s := State.reset) (fun _ => rfl)

end Sys2Proof.Machine
end

section
/-! Frames over the sequencer's instructions: the parameters and the environment stay (R21), and what an operation has
reported stays (R30). -/

namespace Sys2Proof.Machine

/-! ### Parameters and environment -/

/-- `t` has the parameter registers of `s` and the same environment but for the streams (R21; logs 1, 2, 3, 8, 9). -/
def SameParameters (s t : State) : Prop :=
  t.ctrl = s.ctrl ∧ t.len = s.len ∧ t.key = s.key ∧ t.host = s.host ∧ t.reads = s.reads ∧
    t.turns = s.turns ∧ t.cycle = s.cycle ∧ t.inEos = s.inEos ∧ t.cfg = s.cfg

theorem receiveB1_sameParameters (b : Byte) (s : State) : SameParameters s (receiveB1 b s) := by
  obtain ⟨-, e⟩ | ⟨-, e⟩ := receiveB1_cases b s <;> simp [e, SameParameters]

theorem receiveExt_sameParameters (b : Byte) (s : State) : SameParameters s (receiveExt b s) := by
  obtain ⟨-, e⟩ | ⟨-, e⟩ := receiveExt_cases b s <;> simp [e, SameParameters]

theorem receiveKey_sameParameters {b : Byte} {s t : State} (h : receiveKey b s = .next t) : SameParameters s t := by
  obtain ⟨-, rfl⟩ | ⟨-, rfl⟩ := receiveKey_cases h <;> simp [storeKeyByte, SameParameters]

theorem SeqEffect.sameParameters {s t : State} (e : SeqEffect s t) : SameParameters s t := by
  cases e with
  | stay => simp [SameParameters]
  | emit b _ => simp [SameParameters, emitHeaderByte]
  | truncated _ _ | endOfStream _ _ => simp [SameParameters]
  | firstByte _ b rest _ _ => simp [SameParameters, receiveB0_eq]
  | secondByte _ b rest _ _ => exact receiveB1_sameParameters b { s with inp := rest }
  | lengthByte b rest _ _ => exact receiveExt_sameParameters b { s with inp := rest }
  | keyByte b rest t _ _ hk => exact receiveKey_sameParameters (s := { s with inp := rest }) hk
  | payloadByte b rest _ _ => simp [SameParameters]

/-- Settles O30: none of the effects of a sequencer instruction touches a parameter or the environment. -/
theorem sequencerInstructionsKeepParameters : Obligations.SequencerInstructionsKeepParameters :=
  fun _ _ _ hc h => (exec_seqEffect hc h).sameParameters

/-! ### Sticky flags -/

/-- Every event flag and `DONE`, once set in `f`, is set in `g` (R30). -/
def FlagsStay (f g : Flags) : Prop :=
  (∀ e, flagOf e f = true → flagOf e g = true) ∧ (f.done = true → g.done = true)

theorem FlagsStay.refl (f : Flags) : FlagsStay f f := ⟨fun _ h => h, fun h => h⟩

theorem flagOf_setFlag (k e : ErrKind) (f : Flags) : flagOf k (setFlag e f) = (decide (k = e) || flagOf k f) := by
  cases e <;> cases k <;> simp [flagOf, setFlag]

theorem setFlag_done (e : ErrKind) (f : Flags) : (setFlag e f).done = f.done := by
  cases e <;> rfl

/-- `BUSY` and `DONE` are no event flags. -/
theorem flagOf_busy_done (k : ErrKind) (f : Flags) (b d : Bool) :
    flagOf k { f with busy := b, done := d } = flagOf k f := by
  cases k <;> rfl

/-- Raising an event sets its flag, and a fatal one clears `BUSY` (R200, R201). -/
theorem raise_flags (e : ErrKind) (s : State) :
    (raise e s).flags = { setFlag e s.flags with busy := s.flags.busy && !errFatal e } := by
  cases e <;> simp [raise, setFlag, errFatal]

theorem raise_flagsStay {f : Flags} {s : State} (e : ErrKind) (h : FlagsStay f s.flags) :
    FlagsStay f (raise e s).flags := by
  rw [raise_flags]
  refine ⟨fun k hk => (flagOf_busy_done k (setFlag e s.flags) _ _).trans ?_, fun hd => ?_⟩
  · rw [flagOf_setFlag, h.1 k hk, Bool.or_true]
  · exact (setFlag_done e s.flags).trans (h.2 hd)

theorem finish_flagsStay {f : Flags} {s : State} (h : FlagsStay f s.flags) : FlagsStay f (finish s).flags :=
  ⟨fun k hk => (flagOf_busy_done k s.flags _ _).trans (h.1 k hk), fun _ => rfl⟩

theorem payStart_flagsStay {f : Flags} {s : State} (h : FlagsStay f s.flags) : FlagsStay f (payStart s).flags := by
  obtain ⟨-, e⟩ | ⟨-, e⟩ := payStart_cases s <;> rw [e]
  · exact finish_flagsStay h
  · exact h

theorem keyStep_flagsStay {f : Flags} {s : State} (h : FlagsStay f s.flags) : FlagsStay f (keyStep s).flags := by
  obtain ⟨-, e⟩ | ⟨-, e⟩ := keyStep_cases s <;> rw [e]
  · exact h
  · exact payStart_flagsStay (raise_flagsStay _ h)

theorem encAdvance_flagsStay {f : Flags} {s : State} (h : FlagsStay f s.flags) :
    FlagsStay f (encAdvance s).flags := by
  obtain ⟨-, e⟩ | ⟨-, e⟩ := encAdvance_cases s <;> rw [e]
  · exact h
  · exact payStart_flagsStay h

theorem payAdvance_flagsStay {f : Flags} {s : State} (h : FlagsStay f s.flags) :
    FlagsStay f (payAdvance s).flags := by
  obtain ⟨-, e⟩ | ⟨-, e⟩ := payAdvance_cases s <;> rw [e]
  · exact finish_flagsStay h
  · exact h

theorem receiveB0_flagsStay {f : Flags} {s : State} (b : Byte) (h : FlagsStay f s.flags) :
    FlagsStay f (receiveB0 b s).flags := by
  rw [receiveB0_eq]
  refine ⟨fun k hk => ?_, h.2⟩
  have := h.1 k hk
  cases k with
  | malformedOpcodeOrFlags => exact Bool.or_eq_true_iff.mpr (.inl this)
  | truncatedHeader | unexpectedEndOfStream | unmaskedFrameEncountered => exact this

theorem receiveB1_flagsStay {f : Flags} {s : State} (b : Byte) (h : FlagsStay f s.flags) :
    FlagsStay f (receiveB1 b s).flags := by
  obtain ⟨-, e⟩ | ⟨-, e⟩ := receiveB1_cases b s <;> rw [e]
  · exact keyStep_flagsStay h
  · exact h

theorem receiveExt_flagsStay {f : Flags} {s : State} (b : Byte) (h : FlagsStay f s.flags) :
    FlagsStay f (receiveExt b s).flags := by
  obtain ⟨-, e⟩ | ⟨-, e⟩ := receiveExt_cases b s <;> rw [e]
  · exact h
  · exact keyStep_flagsStay h

theorem receiveKey_flagsStay {f : Flags} {b : Byte} {s t : State} (h : FlagsStay f s.flags)
    (hk : receiveKey b s = .next t) : FlagsStay f t.flags := by
  obtain ⟨-, rfl⟩ | ⟨-, rfl⟩ := receiveKey_cases hk
  · exact h
  · exact payStart_flagsStay h

theorem SeqEffect.flagsStay {s t : State} (e : SeqEffect s t) : FlagsStay s.flags t.flags := by
  have h := FlagsStay.refl s.flags
  cases e with
  | stay => exact h
  | emit b _ => exact encAdvance_flagsStay h
  | truncated _ _ | endOfStream _ _ => exact raise_flagsStay _ h
  | firstByte _ b rest _ _ => exact receiveB0_flagsStay b h
  | secondByte _ b rest _ _ => exact receiveB1_flagsStay b h
  | lengthByte b rest _ _ => exact receiveExt_flagsStay b h
  | keyByte b rest t _ _ hk => exact receiveKey_flagsStay (s := { s with inp := rest }) h hk
  | payloadByte b rest _ _ => exact payAdvance_flagsStay h

/-- Settles O34: the effects of the sequencer only set flags, and a command of a busy block is ignored. -/
theorem eventFlagsAreSticky : Obligations.EventFlagsAreSticky := by
  intro i s t e h hbusy
  have hstay : FlagsStay s.flags t.flags := by
    by_cases hc : i.row.carrier = .ctrl
    · rw [exec_command_busy hc (hbusy hc)] at h
      injection h with h
      exact h ▸ .refl _
    · exact (exec_seqEffect hc h).flagsStay
  exact ⟨hstay.1 e, hstay.2⟩

/-! ### An accepted START -/

/-- Settles O50: what a START does not store it clears, so that the old flags, record and sequencing state leave no trace. -/
theorem startForgetsTheLastOperation : Obligations.StartForgetsTheLastOperation := by
  intro s i f h p c ph hc hs hf
  obtain ⟨o, k, m, rfl | rfl⟩ := command_cases hc
  · simp only [exec, execMask, hs, hf]
    rfl
  · simp only [exec, execUnmask, hs, hf]
    rfl

end Sys2Proof.Machine
end

section
/-! The register map, bit by bit (R22 to R29), and what it reads after reset (R36). -/

namespace Sys2Proof.Machine

/-! ### Fields of a register word -/

/-- Where a field put at bit `a` of a register word shows. -/
theorem getLsbD_placed {w : Nat} (x : BitVec w) (a i : Nat) :
    (x.setWidth 32 <<< a).getLsbD i = (decide (i < 32) && decide (a ≤ i) && x.getLsbD (i - a)) := by
  rw [BitVec.getLsbD_shiftLeft, BitVec.getLsbD_setWidth]
  grind

/-- A field read back where it was put. -/
theorem extract_placed {w a : Nat} (x : BitVec w) (h : a + w ≤ 32) : (x.setWidth 32 <<< a).extractLsb' a w = x := by
  ext i hi
  rw [BitVec.getElem_extractLsb', getLsbD_placed, Nat.add_sub_cancel_left, BitVec.getLsbD_eq_getElem hi]
  simp
  omega

/-- A field shows nowhere but where it was put. -/
theorem extract_placed_elsewhere {w a b n : Nat} (x : BitVec w) (h : b + n ≤ a ∨ a + w ≤ b) :
    (x.setWidth 32 <<< a).extractLsb' b n = 0 := by
  ext i hi
  rw [BitVec.getElem_extractLsb', getLsbD_placed]
  obtain h | h := h
  · simp [show ¬ a ≤ b + i by omega]
  · simp [BitVec.getLsbD_of_ge x (b + i - a) (by omega)]

/-- `extract_placed` for a field at the low end of the word. -/
theorem extract_low {w : Nat} (x : BitVec w) (h : w ≤ 32) : (x.setWidth 32).extractLsb' 0 w = x := by
  have := extract_placed (a := 0) x (by omega)
  rwa [BitVec.shiftLeft_zero] at this

/-- `extract_placed_elsewhere` for a field at the low end of the word. -/
theorem extract_low_elsewhere {w b n : Nat} (x : BitVec w) (h : w ≤ b) : (x.setWidth 32).extractLsb' b n = 0 := by
  have := extract_placed_elsewhere (a := 0) (n := n) x (.inr (by omega : 0 + w ≤ b))
  rwa [BitVec.shiftLeft_zero] at this

theorem getLsbD_bitAt (n : Nat) (b : Bool) (i : Nat) :
    (bitAt n b).getLsbD i = (b && decide (i = n) && decide (n < 32)) := by
  rw [bitAt, getLsbD_placed, BitVec.getLsbD_ofBool]
  grind

/-- A stored bit shows in no field it is not in. -/
theorem extract_bitAt_elsewhere {n b k : Nat} (x : Bool) (h : b + k ≤ n ∨ n + 1 ≤ b) :
    (bitAt n x).extractLsb' b k = 0 :=
  extract_placed_elsewhere (BitVec.ofBool x) h

theorem lowHalf_eq (d : DWord) : lowHalf d = d.setWidth 32 := by
  ext i hi
  simp [lowHalf]

theorem highHalf_eq (d : DWord) : highHalf d = (d >>> 32).setWidth 32 := by
  ext i hi
  simp [highHalf, BitVec.getLsbD_ushiftRight]

/-! ### `CTRL`, `STATUS`, keys -/

theorem ctrlWord_reserved (s : State) : (ctrlWord s).extractLsb' 0 1 = 0 ∧ (ctrlWord s).extractLsb' 5 27 = 0 := by
  constructor <;> simp (disch := decide) [ctrlWord, BitVec.extractLsb'_or, extract_bitAt_elsewhere]

theorem ctrlWord_bits (s : State) :
    (ctrlWord s).getLsbD 1 = s.ctrl.dir ∧ (ctrlWord s).getLsbD 2 = s.ctrl.opsel ∧
      (ctrlWord s).getLsbD 3 = s.ctrl.keyEn ∧ (ctrlWord s).getLsbD 4 = maskEnabled s := by
  simp only [ctrlWord, BitVec.getLsbD_or, getLsbD_bitAt]
  simp

theorem maskEnabled_eq (s : State) : maskEnabled s = (s.ctrl.maskEn || !s.cfg.unmaskedEncode) := by
  cases h : s.cfg.unmaskedEncode <;> simp [h, maskEnabled]

theorem statusWord_reserved (s : State) :
    (statusWord s).extractLsb' 4 4 = 0 ∧ (statusWord s).extractLsb' 12 4 = 0 ∧ (statusWord s).extractLsb' 24 8 = 0 := by
  refine ⟨?_, ?_, ?_⟩ <;>
    simp (disch := decide) [statusWord, BitVec.extractLsb'_or, extract_bitAt_elsewhere, extract_placed_elsewhere]

theorem statusWord_fields (s : State) :
    (statusWord s).extractLsb' 16 3 = phaseCode s.phase ∧ (statusWord s).extractLsb' 20 4 = s.cnt := by
  constructor <;> simp (disch := decide) [statusWord, BitVec.extractLsb'_or, extract_bitAt_elsewhere, extract_placed,
    extract_placed_elsewhere]

theorem statusWord_bits (s : State) :
    (statusWord s).getLsbD 0 = s.flags.busy ∧ (statusWord s).getLsbD 1 = s.flags.done ∧
      (statusWord s).getLsbD 2 = errorFlag s.flags ∧ (statusWord s).getLsbD 3 = diagFlag s.flags ∧
      (statusWord s).getLsbD 8 = s.flags.eTrunc ∧ (statusWord s).getLsbD 9 = s.flags.eEos ∧
      (statusWord s).getLsbD 10 = s.flags.dMalformed ∧ (statusWord s).getLsbD 11 = s.flags.dUnmasked ∧
      (statusWord s).getLsbD 19 = false := by
  simp only [statusWord, BitVec.getLsbD_or, getLsbD_bitAt, getLsbD_placed]
  simp

theorem keyOfWord_wordOfKey (k : Key) : keyOfWord (wordOfKey k) = k := by
  simp (disch := decide) [keyOfWord, wordOfKey, BitVec.extractLsb'_or, extract_placed, extract_placed_elsewhere,
    extract_low, extract_low_elsewhere]

theorem header_bytes_word (b0 b1 : Byte) :
    ((b1.setWidth 32 <<< 8) ||| b0.setWidth 32 : Word).extractLsb' 0 8 = b0 ∧
      ((b1.setWidth 32 <<< 8) ||| b0.setWidth 32 : Word).extractLsb' 8 8 = b1 ∧
      ((b1.setWidth 32 <<< 8) ||| b0.setWidth 32 : Word).extractLsb' 16 16 = 0 := by
  refine ⟨?_, ?_, ?_⟩ <;> simp (disch := decide) [BitVec.extractLsb'_or, extract_placed, extract_placed_elsewhere,
    extract_low, extract_low_elsewhere]

/-! ### The map -/

theorem regRead_unmapped {off : Nat} (s : State) (h : off % 4 ≠ 0 ∨ 0x2C ≤ off) : regRead off s = 0 := by
  have hrow (k : Nat) (hk : k % 4 = 0 ∧ k < 0x2C) : off ≠ k := by omega
  simp (disch := decide) only [regRead, hrow, if_false]

/-- Settles O37: offset by offset; each word is taken apart by where its fields were put. -/
theorem registerReadsFollowTheMap : Obligations.RegisterReadsFollowTheMap := by
  intro s
  obtain ⟨hstart, hreserved⟩ := ctrlWord_reserved s
  obtain ⟨hdir, hopsel, hkeyEn, hmaskEn⟩ := ctrlWord_bits s
  have hkey := keyOfWord_wordOfKey s.hdr.key
  refine ⟨⟨hstart, hdir, hopsel, hkeyEn, hmaskEn.trans (maskEnabled_eq s), hreserved⟩, fun t hf hp hc => ?_,
    lowHalf_eq _, highHalf_eq _, rfl, header_bytes_word _ _, lowHalf_eq _, highHalf_eq _,
    ⟨congrArg Key.k0 hkey, congrArg Key.k1 hkey, congrArg Key.k2 hkey, congrArg Key.k3 hkey⟩,
    lowHalf_eq _, highHalf_eq _, fun off h => regRead_unmapped s h⟩
  change statusWord t = statusWord s
  rw [statusWord, statusWord, hf, hp, hc]

/-- Settles O38: the bits and fields of `STATUS`, of which the wires are three. -/
theorem statusBitsAreWhereTheyBelong : Obligations.StatusBitsAreWhereTheyBelong := by
  intro s
  obtain ⟨hbusy, hdone, herror, hdiag, htrunc, heos, hmal, hunm, h19⟩ := statusWord_bits s
  obtain ⟨h4, h12, h24⟩ := statusWord_reserved s
  obtain ⟨hphase, hcnt⟩ := statusWord_fields s
  refine ⟨hbusy, hdone, herror, hdiag, h4, htrunc, heos, hmal, hunm, h12, hphase.trans ?_, h19, hcnt, h24,
    hbusy.symm, hdone.symm, herror.symm⟩
  cases s.phase <;> rfl

/-! ### Reset -/

/-- After reset every register but `CTRL` is built of zeros (R36). -/
theorem regRead_reset {off : Nat} (h : off ≠ 0x00) : regRead off State.reset = 0 := by
  have hstatus : statusWord State.reset = 0 := by decide
  have hlen : State.reset.len = 0 ∧ State.reset.key = 0 ∧ State.reset.hdr = Header.zero ∧ State.reset.pos = 0 :=
    ⟨rfl, rfl, rfl, rfl⟩
  have hhalves : lowHalf 0 = 0 ∧ highHalf 0 = 0 := by decide
  have hheader : (Header.zero.b1.setWidth 32 <<< 8 ||| Header.zero.b0.setWidth 32 : Word) = 0 ∧ Header.zero.len = 0 ∧
      wordOfKey Header.zero.key = 0 := by decide
  rw [regRead, if_neg (show ¬ off = regCtrl from h)]
  simp only [hstatus, hlen, hhalves, hheader, ite_self]

/-- Settles O44: the values of R36, field by field, and what the registers make of them. -/
theorem resetValues : Obligations.ResetValues :=
  ⟨rfl, rfl, rfl, rfl, rfl, rfl, rfl, rfl, rfl, fun _ => regRead_reset, fun _ => rfl⟩

end Sys2Proof.Machine
end

section
/-! What a step does to the two streams (R52 to R56, R69 to R71): each operation of the sequencer moves the bytes of one
transfer, and of the host's lines only `IN = <bytes>` and `IN = OUT` touch a stream. -/

namespace Sys2Proof.Machine

/-! ### Operations that touch no stream -/

/-- `t` has the streams of `s`: no byte has passed. -/
def SameStreams (s t : State) : Prop := t.inp = s.inp ∧ t.out = s.out

theorem receiveB1_sameStreams (b : Byte) (s : State) : SameStreams s (receiveB1 b s) := by
  obtain ⟨-, e⟩ | ⟨-, e⟩ := receiveB1_cases b s <;> simp [e, SameStreams]

theorem receiveExt_sameStreams (b : Byte) (s : State) : SameStreams s (receiveExt b s) := by
  obtain ⟨-, e⟩ | ⟨-, e⟩ := receiveExt_cases b s <;> simp [e, SameStreams]

theorem receiveKey_sameStreams {b : Byte} {s t : State} (h : receiveKey b s = .next t) : SameStreams s t := by
  obtain ⟨-, rfl⟩ | ⟨-, rfl⟩ := receiveKey_cases h <;> simp [storeKeyByte, SameStreams]

theorem exec_command_sameStreams {i : Instr} {s t : State} (hc : i.row.carrier = .ctrl) (h : exec i s = .next t) :
    SameStreams s t := by
  cases hb : s.flags.busy with
  | true =>
    rw [exec_command_busy hc hb] at h
    injection h with h
    exact h ▸ ⟨rfl, rfl⟩
  | false =>
    obtain ⟨o, k, m, rfl | rfl⟩ := command_cases hc <;>
      simp only [exec, execMask, execUnmask, hb] at h <;> injection h with h <;> exact h ▸ ⟨rfl, rfl⟩

theorem regWrite_sameStreams (off : Nat) (v : Word) (s : State) : SameStreams s (regWrite off v s) := by
  unfold regWrite
  split_ifs <;> exact ⟨rfl, rfl⟩

theorem hostWait_sameStreams (s : State) : SameStreams s (hostWait s) := by
  unfold hostWait
  split <;> exact ⟨rfl, rfl⟩

/-! ### The transfer of each operation of the sequencer -/

theorem execEncode_streams {s t : State} (hp : s.phase = .encHdr) (h : execEncode s = .next t) :
    ∃ b, hdrByte s.hdr s.cnt.toNat = some b ∧ t.inp = s.inp ∧ t.out = s.out ++ [b] := by
  simp only [execEncode, hp] at h
  split at h
  next b hb =>
    injection h with h
    exact ⟨b, hb, by simp [← h, emitHeaderByte], by simp [← h, emitHeaderByte]⟩
  next => cases h

/-- A read whose continuation touches no stream consumes the next byte, if there is one, and emits none. -/
theorem readOr_streams {e : ErrKind} {k : Byte → State → Result} {s t : State}
    (hk : ∀ b s1, k b s1 = .next t → SameStreams s1 t) (h : readOr e k s = .next t) :
    t.inp = s.inp.tail ∧ t.out = s.out := by
  obtain ⟨hi, rfl⟩ | ⟨b, rest, hi, hb⟩ := readOr_cases h
  · simp [hi]
  · obtain ⟨hinp, hout⟩ := hk b _ hb
    exact ⟨by simp [hinp, hi], hout⟩

theorem execDecode_streams {s t : State} (hp : headerPhase s.phase) (h : execDecode s = .next t) :
    t.inp = s.inp.tail ∧ t.out = s.out := by
  unfold execDecode at h
  split at h
  · refine readOr_streams (fun b s1 hb => ?_) h
    injection hb with hb
    exact hb ▸ by simp [receiveB0_eq, SameStreams]
  · refine readOr_streams (fun b s1 hb => ?_) h
    injection hb with hb
    exact hb ▸ receiveB1_sameStreams b s1
  · refine readOr_streams (fun b s1 hb => ?_) h
    injection hb with hb
    exact hb ▸ receiveExt_sameStreams b s1
  · exact readOr_streams (fun _ _ => receiveKey_sameStreams) h
  · simp_all [headerPhase]

theorem execApply_streams {s t : State} (hp : s.phase = .payload) (h : execApply s = .next t) :
    (s.inp = [] ∧ SameStreams s t) ∨
    ∃ b, s.inp = b :: t.inp ∧ t.out = s.out ++ [applyByte b s.pos s.hdr.key] ∧ t.pos = s.pos + 1 := by
  simp only [execApply, hp] at h
  obtain ⟨hi, rfl⟩ | ⟨b, rest, hi, hb⟩ := readOr_cases h
  · exact .inl ⟨hi, by simp [SameStreams]⟩
  · injection hb with hb
    exact .inr ⟨b, by simp [← hb, hi]⟩

/-! ### The streams over a step -/

/-- What a step that connects no stream can do to the two streams: one transfer of the phase, or nothing. -/
inductive Transfer (s t : State) : Prop
  | nothing : SameStreams s t → Transfer s t
  | headerOut (b : Byte) : s.phase = .encHdr → t.inp = s.inp → t.out = s.out ++ [b] → Transfer s t
  | headerIn (b : Byte) : headerPhase s.phase → s.inp = b :: t.inp → t.out = s.out → Transfer s t
  | payload (b : Byte) : s.phase = .payload → s.inp = b :: t.inp →
      t.out = s.out ++ [applyByte b s.pos s.hdr.key] → t.pos = s.pos + 1 → Transfer s t

theorem phase_cases (p : Phase) : p = .idle ∨ p = .encHdr ∨ headerPhase p ∨ p = .payload := by
  cases p <;> simp [headerPhase]

theorem phaseOp_headerPhase {p : Phase} (h : headerPhase p) : phaseOp p = .decode := by
  cases p with
  | decB0 | decB1 | decExt | decKey => rfl
  | idle | encHdr | payload => simp [headerPhase] at h

theorem exec_phaseOp_transfer {s t : State} (h : exec (phaseOp s.phase) s = .next t) : Transfer s t := by
  obtain hp | hp | hp | hp := phase_cases s.phase
  · rw [hp] at h
    simp only [phaseOp, exec, execDecode, hp] at h
    injection h with h
    exact .nothing (h ▸ ⟨rfl, rfl⟩)
  · rw [hp] at h
    obtain ⟨b, -, hinp, hout⟩ := execEncode_streams hp h
    exact .headerOut b hp hinp hout
  · rw [phaseOp_headerPhase hp] at h
    obtain ⟨hinp, hout⟩ := execDecode_streams hp h
    cases hi : s.inp with
    | nil => exact .nothing ⟨by simp [hinp, hi], hout⟩
    | cons b rest => exact .headerIn b hp (by simp [hinp, hi]) hout
  · rw [hp] at h
    obtain ⟨-, hs⟩ | ⟨b, hi, hout, hpos⟩ := execApply_streams hp h
    · exact .nothing hs
    · exact .payload b hp hi hout hpos

/-- Taking the turn touches nothing a transfer speaks of. -/
theorem Transfer.of_advance {s t : State} (h : Transfer (advance s) t) : Transfer s t := by
  cases h with
  | nothing h => exact .nothing (by simpa [SameStreams] using h)
  | headerOut b hp hi ho => exact .headerOut b (by simpa using hp) (by simpa using hi) (by simpa using ho)
  | headerIn b hp hi ho => exact .headerIn b (by simpa using hp) (by simpa using hi) (by simpa using ho)
  | payload b hp hi ho hpos =>
    exact .payload b (by simpa using hp) (by simpa using hi) (by simpa using ho) (by simpa using hpos)

/-- The line `IN = OUT` moves everything the sink holds to the source (log 26). -/
theorem step_feedBack {s t : State} (hf : fetch s = .line .feedBack) (h : step s = .next t) :
    t.inp = s.out ∧ t.out = [] := by
  simp only [step, hf, hostLine] at h
  obtain ⟨-, e⟩ | ⟨-, e⟩ := hostFeedBack_cases (advance s) <;> rw [e] at h
  · cases h
  · injection h with h
    simp [← h]

/-- The line `IN = <bytes>` leaves the sink as it is (log 15). -/
theorem hostInput_out {bytes : List Byte} {s t : State} (h : hostInput bytes s = .next t) : t.out = s.out := by
  obtain ⟨-, e⟩ | ⟨-, e⟩ := hostInput_cases bytes s <;> rw [e] at h
  · cases h
  · injection h with h
    exact h ▸ rfl

theorem hostLine_streams {l : HostLine} {s t : State} (h : hostLine l s = .next t) :
    SameStreams s t ∨ (∃ bytes, l = .input bytes ∧ t.out = s.out) ∨ l = .feedBack := by
  cases l with
  | wr off v => injection h with h; exact .inl (h ▸ regWrite_sameStreams off v s)
  | rd off => injection h with h; exact .inl (h ▸ ⟨rfl, rfl⟩)
  | wait => injection h with h; exact .inl (h ▸ hostWait_sameStreams s)
  | reset => injection h with h; exact .inl (h ▸ ⟨rfl, rfl⟩)
  | input bytes => exact .inr (.inl ⟨bytes, rfl, hostInput_out h⟩)
  | feedBack => exact .inr (.inr rfl)

/-- Everything a step can do to the streams: a transfer, or the platform connects one (log 15, log 26). -/
theorem step_streams {s t : State} (h : step s = .next t) :
    Transfer s t ∨ (∃ bytes, fetch s = .line (.input bytes) ∧ t.out = s.out) ∨ fetch s = .line .feedBack := by
  obtain ⟨_, _, -, -, he⟩ | rfl | ⟨v, i, -, hd, he⟩ | ⟨l, _, -, -, hf, hl⟩ := step_cases h
  · rw [← advance_phase s] at he
    exact .inl (exec_phaseOp_transfer he).of_advance
  · exact .inl (Transfer.nothing ⟨rfl, rfl⟩).of_advance
  · exact .inl (Transfer.nothing (exec_command_sameStreams (decodeCtrl_carrier hd) he)).of_advance
  · obtain hs | ⟨bytes, rfl, ho⟩ | rfl := hostLine_streams hl
    · exact .inl (Transfer.nothing hs).of_advance
    · exact .inr (.inl ⟨bytes, hf, ho.trans (advance_out s)⟩)
    · exact .inr (.inr hf)

/-- A transfer puts at most one byte behind what the sink holds. -/
theorem Transfer.out_grows {s t : State} (h : Transfer s t) :
    ∃ l : List Byte, t.out = s.out ++ l ∧ l.length ≤ 1 := by
  cases h with
  | nothing h => exact ⟨[], by simp [h.2], by simp⟩
  | headerOut b _ _ ho => exact ⟨[b], ho, le_rfl⟩
  | headerIn _ _ _ ho => exact ⟨[], by simp [ho], by simp⟩
  | payload b _ _ ho _ => exact ⟨[applyByte b s.pos s.hdr.key], ho, le_rfl⟩

/-- Settles O31: a transfer appends at most one byte, and of the host's lines only `IN = OUT` touches `OUT`. -/
theorem outputIsAppendOnly : Obligations.OutputIsAppendOnly := by
  refine fun s t h => ⟨fun hne => ?_, fun hf => step_feedBack hf h⟩
  obtain ht | ⟨_, -, ho⟩ | hf := step_streams h
  · exact ht.out_grows
  · exact ⟨[], by simp [ho], by simp⟩
  · exact absurd hf hne

/-- Settles O32: of the transfers only that of a header byte received and that of a payload byte consume one. -/
theorem inputIsConsumedInOrder : Obligations.InputIsConsumedInOrder := by
  intro s t h hinput hfeed
  obtain ht | ⟨bytes, hf, -⟩ | hf := step_streams h
  · cases ht with
    | nothing hs => exact .inl hs.1
    | headerOut _ _ hi _ => exact .inl hi
    | headerIn b hp hi ho =>
      exact .inr ⟨b, hi, fun hpay => by simp [headerPhase, hpay] at hp, fun _ => ho⟩
    | payload b hp hi ho hpos => exact .inr ⟨b, hi, fun _ => ⟨ho, hpos⟩, fun hne => absurd hp hne⟩
  · exact absurd hf (hinput bytes)
  · exact absurd hf hfeed

/-- Settles O33: the transfers that emit belong to `ENC_HDR` and `PAYLOAD`, those that consume are not of `ENC_HDR`. -/
theorem headerComesBeforePayload : Obligations.HeaderComesBeforePayload := by
  refine fun s t h => ⟨fun hp => ?_, fun hinput hfeed hp => ?_⟩
  · obtain ht | ⟨_, -, ho⟩ | hf := step_streams h
    · cases ht with
      | nothing hs => exact .inl hs.2
      | headerIn _ _ _ ho => exact .inl ho
      | headerOut _ hq _ _ | payload _ hq _ _ _ => simp [hq] at hp
    · exact .inl ho
    · exact .inr ⟨hf, (step_feedBack hf h).2⟩
  · obtain ht | ⟨bytes, hf, -⟩ | hf := step_streams h
    · cases ht with
      | nothing hs => exact hs.1
      | headerOut _ _ hi _ => exact hi
      | headerIn _ hq _ _ => simp [headerPhase, hp] at hq
      | payload _ hq _ _ _ => simp [hp] at hq
    · exact absurd hf (hinput bytes)
    · exact absurd hf hfeed

end Sys2Proof.Machine
end

section
/-! The port levels of R56 against the steps: the sequencer's step is enabled exactly when the ports take an item. -/

namespace Sys2Proof.Machine

/-! ### The levels phase by phase -/

theorem ports_idle {s : State} (hp : s.phase = .idle) (src snk : Bool) :
    (ports s src snk).inTaken = false ∧ (ports s src snk).outTaken = false := by
  simp [Ports.inTaken, Ports.outTaken, ports, hp, readingPhase]

theorem ports_encHdr {s : State} (hp : s.phase = .encHdr) (src snk : Bool) :
    (ports s src snk).inTaken = false ∧ (ports s src snk).outTaken = snk ∧
      (ports s src snk).outData = hdrByte s.hdr s.cnt.toNat := by
  simp [Ports.inTaken, Ports.outTaken, ports, hp, readingPhase]

theorem ports_headerPhase {s : State} (hp : headerPhase s.phase) (src snk : Bool) :
    (ports s src snk).inTaken = sourceReady s src ∧ (ports s src snk).outTaken = false := by
  have hread : readingPhase s.phase = true ∧ s.phase ≠ .encHdr ∧ s.phase ≠ .payload := by
    revert hp; cases s.phase <;> simp [headerPhase, readingPhase]
  cases hi : s.inp <;> simp [Ports.inTaken, Ports.outTaken, ports, hread, hi]

theorem ports_payload {s : State} (hp : s.phase = .payload) (src snk : Bool) :
    (ports s src snk).inTaken = (sourceReady s src && (s.inp.isEmpty || snk)) ∧
      (ports s src snk).outTaken = (sourceReady s src && !s.inp.isEmpty && snk) := by
  cases hi : s.inp <;> cases snk <;> simp [Ports.inTaken, Ports.outTaken, ports, hp, readingPhase, hi]

theorem ports_payload_outData {s : State} {b : Byte} {rest : List Byte} (hp : s.phase = .payload)
    (hi : s.inp = b :: rest) {src snk : Bool} (ho : (ports s src snk).outTaken = true) :
    (ports s src snk).outData = some (applyByte b s.pos s.hdr.key) := by
  rw [(ports_payload hp src snk).2] at ho
  simp_all [ports]

theorem ports_inValid (s : State) (src snk : Bool) :
    (ports s src snk).inValid = (sourceReady s src && !s.inp.isEmpty) := rfl

/-- The source shows a byte or the end of the stream, never both (R56). -/
theorem ports_valid_eos_exclusive (s : State) (src snk : Bool) :
    ¬((ports s src snk).inValid = true ∧ (ports s src snk).inEos = true) := by
  cases hi : s.inp <;> simp [ports, hi]

/-! ### The levels and the step -/

/-- The sequencer's step is enabled exactly when an item is taken (R56, R154). -/
theorem seqInstr_isSome (s : State) (src snk : Bool) :
    (seqInstr s src snk).isSome = ((ports s src snk).inTaken || (ports s src snk).outTaken) := by
  cases hp : s.phase with
  | idle => simp [ports_idle hp, seqInstr, hp]
  | encHdr => cases snk <;> simp [ports_encHdr hp, seqInstr, hp]
  | decB0 | decB1 | decExt | decKey =>
    have hh : headerPhase s.phase := by simp [headerPhase, hp]
    cases hr : sourceReady s src <;> cases hi : s.inp <;> simp [ports_headerPhase hh, seqInstr, hp, hr, hi]
  | payload =>
    cases hr : sourceReady s src <;> cases hi : s.inp <;> cases snk <;> simp [ports_payload hp, seqInstr, hp, hr, hi]

theorem advance_seq {s : State} {src snk : Bool} (h : currentTurn s = .seq src snk) :
    advance s = { s with turns := laterTurns s, inEos := s.inEos || (src && s.inp.isEmpty) } := by
  simp [advance, h]

/-- Taking the turn raises `in_eos` only where a willing source shows it already. -/
theorem ports_advance {s : State} {src snk : Bool} (h : currentTurn s = .seq src snk) :
    ports (advance s) src snk = ports s src snk := by
  have hready : sourceReady (advance s) src = sourceReady s src := by
    rw [advance_seq h]
    cases src <;> simp [sourceReady]
  simp [ports, hready]

/-- From `s` to `t` the streams have moved as the levels `p` show. -/
def MovesAsShown (p : Ports) (s t : State) : Prop :=
  t.inp = (if p.inTaken && p.inValid then s.inp.tail else s.inp) ∧
  t.out = s.out ++ (if p.outTaken then p.outData.toList else [])

theorem exec_phaseOp_movesAsShown {s t : State} {src snk : Bool}
    (hen : ((ports s src snk).inTaken || (ports s src snk).outTaken) = true)
    (h : exec (phaseOp s.phase) s = .next t) : MovesAsShown (ports s src snk) s t := by
  obtain hp | hp | hp | hp := phase_cases s.phase
  · simp [ports_idle hp] at hen
  · rw [hp] at h
    obtain ⟨hin, hout, hdata⟩ := ports_encHdr hp src snk
    obtain ⟨b, hb, hi, ho⟩ := execEncode_streams hp h
    simp_all [MovesAsShown]
  · rw [phaseOp_headerPhase hp] at h
    obtain ⟨hin, hout⟩ := ports_headerPhase hp src snk
    obtain ⟨hi, ho⟩ := execDecode_streams hp h
    cases hs : s.inp <;> simp_all [MovesAsShown, ports_inValid]
  · rw [hp] at h
    obtain ⟨hin, hout⟩ := ports_payload hp src snk
    obtain ⟨hs, hi, ho⟩ | ⟨b, hi, ho, -⟩ := execApply_streams hp h
    · simp_all [MovesAsShown]
    · have hdata := ports_payload_outData (src := src) (snk := snk) hp hi
      simp_all [MovesAsShown, ports_inValid]

/-- Settles O48: a step that is not enabled only takes its turn, and an enabled one is the operation of the phase, which
moves what the levels show. -/
theorem portsAgreeWithSteps : Obligations.PortsAgreeWithSteps := by
  intro s t src snk ht h
  have hsome := seqInstr_isSome s src snk
  have hexcl := ports_valid_eos_exclusive s src snk
  obtain ⟨i, hi, hs⟩ | ⟨hi, hs⟩ := step_seq ht <;> rw [hs] at h <;> simp only [hi] at hsome
  · have hen : ((ports (advance s) src snk).inTaken || (ports (advance s) src snk).outTaken) = true := by
      rw [ports_advance ht]; exact hsome.symm
    rw [← advance_phase s] at h
    obtain ⟨hinp, hout⟩ := exec_phaseOp_movesAsShown hen h
    rw [ports_advance ht, advance_inp] at hinp
    rw [ports_advance ht, advance_out] at hout
    exact ⟨fun hin hout => by simp [hin, hout] at hsome, hinp, hout, hexcl⟩
  · injection h with h
    obtain ⟨hin, hout⟩ := Bool.or_eq_false_iff.mp hsome.symm
    exact ⟨fun _ _ => h ▸ advance_seq ht, by simp [← h, hin], by simp [← h, hout], hexcl⟩

end Sys2Proof.Machine
end

section
/-! A running operation and the parameter registers (R74, R143, R151): every operation of the sequencer commutes with
setting them to other values. -/

namespace Sys2Proof.Machine

/-- `s` with other values in the parameter registers. -/
def withParameters (c : Ctrl) (n : DWord) (k : Word) (s : State) : State := { s with ctrl := c, len := n, key := k }

section Commutes

variable (c : Ctrl) (n : DWord) (k : Word)

@[simp] theorem withParameters_phase (s : State) : (withParameters c n k s).phase = s.phase := rfl
@[simp] theorem withParameters_cnt (s : State) : (withParameters c n k s).cnt = s.cnt := rfl
@[simp] theorem withParameters_hdr (s : State) : (withParameters c n k s).hdr = s.hdr := rfl

theorem raise_withParameters (e : ErrKind) (s : State) :
    raise e (withParameters c n k s) = withParameters c n k (raise e s) := by
  cases e <;> rfl

theorem payStart_withParameters (s : State) :
    payStart (withParameters c n k s) = withParameters c n k (payStart s) := by
  obtain ⟨h, e⟩ | ⟨h, e⟩ := payStart_cases s <;> rw [e]
  · exact if_pos h
  · exact if_neg h

theorem keyStep_withParameters (s : State) :
    keyStep (withParameters c n k s) = withParameters c n k (keyStep s) := by
  obtain ⟨h, e⟩ | ⟨h, e⟩ := keyStep_cases s <;> rw [e]
  · exact if_pos h
  · rw [← payStart_withParameters, ← raise_withParameters]
    exact if_neg (Bool.eq_false_iff.mp h)

theorem encAdvance_withParameters (s : State) :
    encAdvance (withParameters c n k s) = withParameters c n k (encAdvance s) := by
  obtain ⟨h, e⟩ | ⟨h, e⟩ := encAdvance_cases s <;> rw [e]
  · exact if_pos h
  · rw [← payStart_withParameters]
    exact if_neg (Nat.not_lt.mpr h)

theorem payAdvance_withParameters (s : State) :
    payAdvance (withParameters c n k s) = withParameters c n k (payAdvance s) := by
  obtain ⟨h, e⟩ | ⟨h, e⟩ := payAdvance_cases s <;> rw [e]
  · exact if_pos h
  · exact if_neg h

theorem receiveB0_withParameters (b : Byte) (s : State) :
    receiveB0 b (withParameters c n k s) = withParameters c n k (receiveB0 b s) := by
  simp only [receiveB0_eq]
  rfl

theorem receiveB1_withParameters (b : Byte) (s : State) :
    receiveB1 b (withParameters c n k s) = withParameters c n k (receiveB1 b s) := by
  obtain ⟨h, e⟩ | ⟨h, e⟩ := receiveB1_cases b s <;> rw [e]
  · rw [← keyStep_withParameters]
    exact if_pos h
  · exact if_neg (Nat.not_le.mpr h)

theorem receiveExt_withParameters (b : Byte) (s : State) :
    receiveExt b (withParameters c n k s) = withParameters c n k (receiveExt b s) := by
  obtain ⟨h, e⟩ | ⟨h, e⟩ := receiveExt_cases b s <;> rw [e]
  · exact if_pos h
  · rw [← keyStep_withParameters]
    exact if_neg (Nat.not_lt.mpr h)

theorem receiveKey_withParameters {b : Byte} {s t : State} (h : receiveKey b s = .next t) :
    receiveKey b (withParameters c n k s) = .next (withParameters c n k t) := by
  obtain ⟨hc, rfl⟩ | ⟨hc, rfl⟩ := receiveKey_cases h
  · exact if_pos hc
  · rw [← payStart_withParameters]
    exact (if_neg (Nat.not_lt.mpr hc.ge)).trans (if_pos hc)

/-- A read commutes with other parameter values if what it does with the byte does. -/
theorem readOr_withParameters {e : ErrKind} {f : Byte → State → Result} {s t : State}
    (hf : ∀ b s1, f b s1 = .next t → f b (withParameters c n k s1) = .next (withParameters c n k t))
    (h : readOr e f s = .next t) : readOr e f (withParameters c n k s) = .next (withParameters c n k t) := by
  obtain ⟨hi, rfl⟩ | ⟨b, rest, hi, hb⟩ := readOr_cases h
  · rw [readOr_eos (s := withParameters c n k s) hi, raise_withParameters]
  · rw [readOr_byte (s := withParameters c n k s) hi]
    exact hf b _ hb

/-- A receiving step that cannot stop, such as `receiveB0 b`, as the continuation of a read. -/
theorem next_withParameters {g : State → State}
    (hg : ∀ s, g (withParameters c n k s) = withParameters c n k (g s)) {s t : State}
    (h : (.next (g s) : Result) = .next t) :
    (.next (g (withParameters c n k s)) : Result) = .next (withParameters c n k t) := by
  injection h with h
  rw [hg, h]

theorem execEncode_withParameters {s t : State} (h : execEncode s = .next t) :
    execEncode (withParameters c n k s) = .next (withParameters c n k t) := by
  unfold execEncode at h ⊢
  rw [withParameters_phase, withParameters_hdr, withParameters_cnt]
  split at h
  · split at h
    · exact next_withParameters c n k (fun s => encAdvance_withParameters c n k (outWrite _ s)) h
    · cases h
  · injection h with h
    rw [h]

theorem execDecode_withParameters {s t : State} (h : execDecode s = .next t) :
    execDecode (withParameters c n k s) = .next (withParameters c n k t) := by
  unfold execDecode at h ⊢
  rw [withParameters_phase]
  split at h
  · exact readOr_withParameters c n k
      (fun b _ => next_withParameters c n k (receiveB0_withParameters c n k b)) h
  · exact readOr_withParameters c n k
      (fun b _ => next_withParameters c n k (receiveB1_withParameters c n k b)) h
  · exact readOr_withParameters c n k
      (fun b _ => next_withParameters c n k (receiveExt_withParameters c n k b)) h
  · exact readOr_withParameters c n k (fun _ _ => receiveKey_withParameters c n k) h
  · injection h with h
    rw [h]

theorem execApply_withParameters {s t : State} (h : execApply s = .next t) :
    execApply (withParameters c n k s) = .next (withParameters c n k t) := by
  unfold execApply at h ⊢
  rw [withParameters_phase]
  split at h
  · refine readOr_withParameters c n k (fun b s1 hb => ?_) h
    injection hb with hb
    rw [← hb, ← payAdvance_withParameters]
    rfl
  · injection h with h
    rw [h]

theorem exec_phaseOp_withParameters (p : Phase) {s t : State} (h : exec (phaseOp p) s = .next t) :
    exec (phaseOp p) (withParameters c n k s) = .next (withParameters c n k t) := by
  cases p with
  | encHdr => exact execEncode_withParameters c n k h
  | idle | decB0 | decB1 | decExt | decKey => exact execDecode_withParameters c n k h
  | payload => exact execApply_withParameters c n k h

theorem advance_withParameters (s : State) :
    advance (withParameters c n k s) = withParameters c n k (advance s) := by
  have ht : currentTurn (withParameters c n k s) = currentTurn s := rfl
  unfold advance
  rw [ht]
  cases currentTurn s <;> rfl

end Commutes

/-- Settles O49: whose turn it is and whether the step is enabled do not depend on the parameter registers, and every
operation of a phase commutes with setting them. -/
theorem runningOperationIgnoresParameters : Obligations.RunningOperationIgnoresParameters := by
  intro s t src snk c n k ht h
  change step (withParameters c n k s) = .next (withParameters c n k t)
  have hinstr : seqInstr (withParameters c n k s) src snk = seqInstr s src snk := rfl
  have hturn : currentTurn (withParameters c n k s) = .seq src snk := ht
  obtain ⟨i, hi, hs⟩ | ⟨hi, hs⟩ := step_seq ht <;> rw [hs] at h
  · obtain ⟨_, -, hs'⟩ | ⟨hj, -⟩ := step_seq hturn
    · rw [hs', advance_withParameters]
      exact exec_phaseOp_withParameters c n k s.phase h
    · rw [hinstr, hi] at hj; cases hj
  · obtain ⟨_, hj, -⟩ | ⟨-, hs'⟩ := step_seq hturn
    · rw [hinstr, hi] at hj; cases hj
    · injection h with h
      rw [hs', advance_withParameters, h]

end Sys2Proof.Machine
end

section
/-! Words and their instructions (R83 to R85, R89, R93, R98): each decoder on the word an encoder builds, the word of what
each decoder answers, and the rows of the opcode table against both. -/

namespace Sys2Proof.Machine

/-! ### Parts of a word -/

/-- Under a mask of low ones a word keeps its low bits. -/
theorem and_lowMask (w : Word) (k : Nat) : w &&& BitVec.ofNat 32 (2 ^ k - 1) = (w.extractLsb' 0 k).setWidth 32 := by
  apply BitVec.eq_of_getLsbD_eq
  intro i hi
  simp only [BitVec.getLsbD_and, BitVec.getLsbD_ofNat, Nat.testBit_two_pow_sub_one, BitVec.getLsbD_setWidth,
    BitVec.getLsbD_extractLsb', Nat.zero_add, hi, decide_true, Bool.true_and, Bool.and_comm]

/-- A word that matches a row has the row's bits wherever the row's mask has ones (R98). -/
theorem extract_of_match {w m p : Word} {k : Nat} (a : Nat) (h : w &&& m = p)
    (hm : m.extractLsb' a k = BitVec.allOnes k) : w.extractLsb' a k = p.extractLsb' a k := by
  rw [← h, BitVec.extractLsb'_and, hm, BitVec.and_allOnes]

/-- `extract_of_match` for a single bit. -/
theorem getLsbD_of_match {w m p : Word} (i : Nat) (h : w &&& m = p) (hm : m.getLsbD i = true) :
    w.getLsbD i = p.getLsbD i := by
  rw [← h, BitVec.getLsbD_and, hm, Bool.and_true]

/-- The header word of the two low bytes of a word is its low half (R98). -/
theorem hdrWord_of_bytes (w : Word) :
    hdrWord (w.extractLsb' 8 8) (w.extractLsb' 0 8) = w &&& Carrier.hdr.significant := by
  refine Eq.trans ?_ (and_lowMask w 16).symm
  apply BitVec.eq_of_getLsbD_eq
  intro i hi
  rw [hdrWord, BitVec.getLsbD_or, getLsbD_placed]
  simp only [BitVec.getLsbD_setWidth, BitVec.getLsbD_extractLsb']
  grind

/-! ### `CTRL` values (R93) -/

theorem decodeCtrl_mask {v : Word} (h0 : v.getLsbD 0 = true) (h1 : v.getLsbD 1 = false) :
    decodeCtrl v = .ok (.mask (v.getLsbD 2) (v.getLsbD 3) (v.getLsbD 4)) := by
  simp only [decodeCtrl, h0, h1, if_true, Bool.false_eq_true, if_false]

theorem decodeCtrl_unmask {v : Word} (h0 : v.getLsbD 0 = true) (h1 : v.getLsbD 1 = true) :
    decodeCtrl v = .ok (.unmask (v.getLsbD 2) (v.getLsbD 3) (v.getLsbD 4)) := by
  simp only [decodeCtrl, h0, h1, if_true]

theorem decodeCtrl_noStart {v : Word} (h0 : v.getLsbD 0 = false) : decodeCtrl v = .error .notACommand := by
  simp only [decodeCtrl, h0, Bool.false_eq_true, if_false]

/-- A `CTRL` value with START is the value of its direction and its three mode bits, but for the bits that are ignored. -/
theorem ctrlValue_of_bits {v : Word} (h0 : v.getLsbD 0 = true) :
    ctrlValue (v.getLsbD 1) (v.getLsbD 2) (v.getLsbD 3) (v.getLsbD 4) = v &&& Carrier.ctrl.significant := by
  have low : ∀ x : BitVec 5, x.getLsbD 0 = true →
      ctrlValue (x.getLsbD 1) (x.getLsbD 2) (x.getLsbD 3) (x.getLsbD 4) = x.setWidth 32 := by decide
  have := low (v.extractLsb' 0 5) (by simpa using h0)
  refine Eq.trans ?_ (this.trans (and_lowMask v 5).symm)
  simp

/-- The word of a command is that of its `CTRL` value. -/
theorem encode_of_decodeCtrl {v : Word} {i : Instr} (h : decodeCtrl v = .ok i) :
    WellFormed i ∧ encode i = some (.ctrl, v &&& Carrier.ctrl.significant) := by
  cases h0 : v.getLsbD 0 with
  | false => rw [decodeCtrl_noStart h0] at h; cases h
  | true =>
    have hv := ctrlValue_of_bits h0
    cases h1 : v.getLsbD 1 <;> rw [h1] at hv
    · rw [decodeCtrl_mask h0 h1] at h
      cases h
      exact ⟨rfl, by rw [encode, hv]⟩
    · rw [decodeCtrl_unmask h0 h1] at h
      cases h
      exact ⟨rfl, by rw [encode, hv]⟩

/-! ### Header words (R82 to R86) -/

theorem decode_hdrWord (b0 b1 : Byte) : decode .hdr (hdrWord b0 b1) = .ok (decodeHdr b0 b1) := by
  obtain ⟨hlow, hhigh, -⟩ := header_bytes_word b1 b0
  rw [decode, hdrWord, hlow, hhigh]

/-- A second header byte is of tier 7 or one of the four that name an extended length (R83 to R85). -/
theorem tier_cases (b1 : Byte) :
    (len7 b1).toNat ≤ 125 ∨ b1 = 0xFE#8 ∨ b1 = 0x7E#8 ∨ b1 = 0xFF#8 ∨ b1 = 0x7F#8 := by
  revert b1; decide

theorem decodeHdr_tier7 (b0 : Byte) {b1 : Byte} (h : (len7 b1).toNat ≤ 125) :
    decodeHdr b0 b1 = if maskBit b1 then .hdr7m b0 (len7 b1) else .hdr7u b0 (len7 b1) := by
  have h6 : len7 b1 ≠ 126#7 := by intro e; simp [e] at h
  have h7 : len7 b1 ≠ 127#7 := by intro e; simp [e] at h
  exact (if_neg h6).trans (if_neg h7)

theorem decodeHdr_byteB1 (b0 : Byte) (m : Bool) {n : BitVec 7} (h : n.toNat ≤ 125) :
    decodeHdr b0 (byteB1 m n) = if m then .hdr7m b0 n else .hdr7u b0 n := by
  rw [decodeHdr_tier7 b0 (by rwa [len7_byteB1]), maskBit_byteB1, len7_byteB1]

/-- Every header word is the word of its form, also where its length is not minimal (R86, R90). -/
theorem encode_decodeHdr (b0 b1 : Byte) :
    WellFormed (decodeHdr b0 b1) ∧ encode (decodeHdr b0 b1) = some (.hdr, hdrWord b0 b1) := by
  obtain h | rfl | rfl | rfl | rfl := tier_cases b1
  · have hb := byteB1_fields b1
    rw [decodeHdr_tier7 b0 h]
    cases hm : maskBit b1 <;> rw [hm] at hb
    · exact ⟨decide_eq_true h, by simp [encode, hb]⟩
    · exact ⟨decide_eq_true h, by simp [encode, hb]⟩
  all_goals exact ⟨rfl, rfl⟩

/-! ### First header bytes (R89) -/

theorem decode_firstByte (b : Byte) : decode .b0 (b.setWidth 32) = decodeB0 b := by
  rw [decode, extract_low b (by decide)]

theorem decodeB0_text {b : Byte} (h : b.extractLsb' 0 4 = 1#4) : decodeB0 b = .ok (.text (b.extractLsb' 4 4)) :=
  if_pos h

theorem decodeB0_binary {b : Byte} (h : b.extractLsb' 0 4 = 2#4) : decodeB0 b = .ok (.binary (b.extractLsb' 4 4)) := by
  simp [decodeB0, h]

theorem decodeB0_byteB0_text (hi : BitVec 4) : decodeB0 (byteB0 hi 1#4) = .ok (.text hi) := by
  revert hi; decide

theorem decodeB0_byteB0_binary (hi : BitVec 4) : decodeB0 (byteB0 hi 2#4) = .ok (.binary hi) := by
  revert hi; decide

theorem encode_of_decodeB0 {b : Byte} {i : Instr} (h : decodeB0 b = .ok i) :
    WellFormed i ∧ encode i = some (.b0, b.setWidth 32) := by
  obtain ⟨rfl, hb⟩ | ⟨rfl, hb⟩ := decodeB0_ok h
  · exact ⟨rfl, by rw [encode, hb]⟩
  · exact ⟨rfl, by rw [encode, hb]⟩

/-! ### Rows (R98) -/

/-- `EncodingInRow` for every instruction. -/
theorem encodingInRow (i : Instr) : Laws.EncodingInRow.Statement i := by
  cases i with
  | mask o k m => exact Laws.EncodingInRow.mask o k m
  | unmask o k m => exact Laws.EncodingInRow.unmask o k m
  | encode => exact Laws.EncodingInRow.encode
  | decode => exact Laws.EncodingInRow.decode
  | apply => exact Laws.EncodingInRow.apply
  | hdr7m b0 n => exact Laws.EncodingInRow.hdr7m b0 n
  | hdr7u b0 n => exact Laws.EncodingInRow.hdr7u b0 n
  | hdr16m b0 => exact Laws.EncodingInRow.hdr16m b0
  | hdr16u b0 => exact Laws.EncodingInRow.hdr16u b0
  | hdr64m b0 => exact Laws.EncodingInRow.hdr64m b0
  | hdr64u b0 => exact Laws.EncodingInRow.hdr64u b0
  | text hi => exact Laws.EncodingInRow.text hi
  | binary hi => exact Laws.EncodingInRow.binary hi

/-- No row looks at a bit its carrier ignores. -/
theorem row_mask_significant (i : Instr) : i.row.carrier.significant &&& i.row.mask = i.row.mask := by
  cases i <;> simp [Instr.row, Carrier.significant]

/-- Within the low byte of a word. -/
theorem extract_lowByte (w : Word) {k : Nat} (h : k ≤ 8) : (w.extractLsb' 0 8).extractLsb' 0 k = w.extractLsb' 0 k := by
  ext i hi
  simp
  omega

/-- A header word of a tier 7 row decodes to that tier, as its mask bit says (R83). -/
theorem decode_of_match7 {w p : Word} (h : w &&& 0x80#32 = p) (hn : (w &&& 0x7F#32).toNat ≤ 125) :
    decode .hdr w = .ok (if p.getLsbD 7 then .hdr7m (w.extractLsb' 8 8) (w.extractLsb' 0 7)
      else .hdr7u (w.extractLsb' 8 8) (w.extractLsb' 0 7)) := by
  have hlen : len7 (w.extractLsb' 0 8) = w.extractLsb' 0 7 := extract_lowByte w (by decide)
  have hbit : maskBit (w.extractLsb' 0 8) = p.getLsbD 7 := by
    rw [← getLsbD_of_match 7 h rfl, maskBit, BitVec.getLsbD_extractLsb']
    rfl
  have hlow : w &&& 0x7F#32 = (w.extractLsb' 0 7).setWidth 32 := and_lowMask w 7
  have hle : (len7 (w.extractLsb' 0 8)).toNat ≤ 125 := by
    rwa [hlow, BitVec.toNat_setWidth_of_le (by decide), ← hlen] at hn
  rw [decode, decodeHdr_tier7 _ hle, hbit, hlen]

/-- A header word of another row decodes as the row's second byte says (R84, R85). -/
theorem decode_of_matchB1 {w p : Word} (h : w &&& 0xFF#32 = p) :
    decode .hdr w = .ok (decodeHdr (w.extractLsb' 8 8) (p.extractLsb' 0 8)) := by
  rw [decode, extract_of_match 0 h rfl]

/-- A first byte has the opcode of the row it matches (R89). -/
theorem opcode_of_match {w p : Word} (h : w &&& 0x0F#32 = p) :
    (w.extractLsb' 0 8).extractLsb' 0 4 = p.extractLsb' 0 4 :=
  (extract_lowByte w (by decide)).trans (extract_of_match 0 h rfl)

/-- A word that matches a row under its constraint decodes to an instruction of the row. -/
theorem decode_of_match {w : Word} (i : Instr) (hc : i.row.carrier ≠ .internal) (h : w &&& i.row.mask = i.row.pattern)
    (hn : i.row.mask = 0x80#32 → (w &&& 0x7F#32).toNat ≤ 125) :
    ∃ j : Instr, decode i.row.carrier w = .ok j ∧ j.row = i.row := by
  cases i with
  | mask o k m =>
    have h : w &&& 3#32 = 1#32 := h
    exact ⟨_, decodeCtrl_mask (getLsbD_of_match 0 h rfl) (getLsbD_of_match 1 h rfl), rfl⟩
  | unmask o k m =>
    have h : w &&& 3#32 = 3#32 := h
    exact ⟨_, decodeCtrl_unmask (getLsbD_of_match 0 h rfl) (getLsbD_of_match 1 h rfl), rfl⟩
  | encode | decode | apply => exact absurd rfl hc
  | hdr7m b0 n => exact ⟨_, decode_of_match7 (p := 0x80#32) h (hn rfl), rfl⟩
  | hdr7u b0 n => exact ⟨_, decode_of_match7 (p := 0x00#32) h (hn rfl), rfl⟩
  | hdr16m b0 => exact ⟨_, decode_of_matchB1 (p := 0xFE#32) h, rfl⟩
  | hdr16u b0 => exact ⟨_, decode_of_matchB1 (p := 0x7E#32) h, rfl⟩
  | hdr64m b0 => exact ⟨_, decode_of_matchB1 (p := 0xFF#32) h, rfl⟩
  | hdr64u b0 => exact ⟨_, decode_of_matchB1 (p := 0x7F#32) h, rfl⟩
  | text hi => exact ⟨_, decodeB0_text (opcode_of_match (p := 0x01#32) h), rfl⟩
  | binary hi => exact ⟨_, decodeB0_binary (opcode_of_match (p := 0x02#32) h), rfl⟩

/-! ### The obligations -/

/-- Settles O1: carrier by carrier, the decoder on the word the encoder built. -/
theorem decodeOfEncodeGivesInstruction : Obligations.DecodeOfEncodeGivesInstruction := by
  intro i c w hw h
  cases i with
  | mask o k m | unmask o k m => cases h; revert o k m; decide
  | encode | decode | apply => cases h
  | hdr7m b0 n | hdr7u b0 n =>
    cases h
    exact (decode_hdrWord b0 _).trans (congrArg _ (decodeHdr_byteB1 b0 _ (of_decide_eq_true hw)))
  | hdr16m b0 | hdr16u b0 | hdr64m b0 | hdr64u b0 => cases h; exact decode_hdrWord b0 _
  | text hi => cases h; rw [decode_firstByte, decodeB0_byteB0_text]
  | binary hi => cases h; rw [decode_firstByte, decodeB0_byteB0_binary]

/-- Settles O2: carrier by carrier, the encoder on what the decoder answered. -/
theorem encodeOfDecodeGivesWord : Obligations.EncodeOfDecodeGivesWord := by
  intro c w i h
  cases c with
  | ctrl => exact encode_of_decodeCtrl h
  | hdr =>
    cases h
    rw [← hdrWord_of_bytes]
    exact encode_decodeHdr _ _
  | b0 =>
    rw [show w &&& Carrier.b0.significant = (w.extractLsb' 0 8).setWidth 32 from and_lowMask w 8]
    exact encode_of_decodeB0 h
  | internal => cases h

/-- Settles O3: the word of an instruction is in the instruction's row, and it is the decoded word but for bits no row
looks at; the converse is `decode_of_match`. -/
theorem decodingFollowsTableRows : Obligations.DecodingFollowsTableRows := by
  refine ⟨fun c w i h => ?_, fun w i => decode_of_match i⟩
  obtain ⟨-, hword⟩ := encodeOfDecodeGivesWord c w i h
  obtain ⟨-, hrow⟩ := encodingInRow i
  obtain ⟨rfl, -, hmatch⟩ := hrow _ _ hword
  rw [BitVec.and_assoc, row_mask_significant] at hmatch
  exact ⟨rfl, hmatch⟩

/-- Settles O4: ten words, each decoded by evaluation. -/
theorem writtenOutWordsDecode : Obligations.WrittenOutWordsDecode := by
  unfold Obligations.WrittenOutWordsDecode
  decide

end Sys2Proof.Machine
end

section
/-! The wire forms and the frame opcodes as the step in which their byte passes (R81 to R85, R89, R155, R157, R158): each is
`passB0` or `passB1` of its own byte, and a pass is the receiving or the emitting step of its phase. -/

namespace Sys2Proof.Machine

/-! ### Second bytes received -/

/-- The byte `B1` of an unmasked header is its 7-bit field. -/
theorem byteB1_unmasked (n : BitVec 7) : byteB1 false n = n.setWidth 8 := BitVec.zero_or

theorem passB1_received {s : State} {x : Byte} {rest : List Byte} (b : Byte) (hp : s.phase = .decB1)
    (hi : s.inp = x :: rest) : passB1 b s = .next (receiveB1 b { s with inp := rest }) := by
  simp only [passB1, hp, readOr_byte hi]

theorem receiveB1_extended {b : Byte} (h : 125 < (len7 b).toNat) (s : State) :
    receiveB1 b s = { s with hdr := { s.hdr with b1 := b, len := 0 }, cnt := 0, phase := .decExt } := by
  obtain ⟨hle, -⟩ | ⟨-, e⟩ := receiveB1_cases b s
  · omega
  · exact e

/-- A second byte of tier 7 completes the length (R158, R161). -/
theorem receiveB1_tier7 (m : Bool) {n : BitVec 7} (h : n.toNat ≤ 125) (s : State) :
    receiveB1 (byteB1 m n) s =
      keyStep { s with hdr := { s.hdr with b1 := byteB1 m n, len := n.setWidth 64 } } := by
  obtain ⟨-, e⟩ | ⟨hgt, -⟩ := receiveB1_cases (byteB1 m n) s
  · rw [e, len7_byteB1]
  · rw [len7_byteB1] at hgt; omega

theorem keyStep_masked {s : State} (h : maskBit s.hdr.b1 = true) : keyStep s = { s with cnt := 0, phase := .decKey } :=
  if_pos h

theorem keyStep_unmasked {s : State} (h : maskBit s.hdr.b1 = false) :
    keyStep s = payStart (raise .unmaskedFrameEncountered s) := by
  simp only [keyStep, h, Bool.false_eq_true, if_false]

theorem payStart_empty {s : State} (h : s.hdr.len = 0) : payStart s = finish { s with cnt := 0, pos := 0 } := if_pos h

theorem payStart_nonempty {s : State} (h : s.hdr.len ≠ 0) : payStart s = { s with cnt := 0, pos := 0, phase := .payload } :=
  if_neg h

/-- A masked form of tier 7 as received: the key is next. -/
theorem hdr7m_received {s : State} {x : Byte} {rest : List Byte} {n : BitVec 7} (b0 : Byte) (hp : s.phase = .decB1)
    (hi : s.inp = x :: rest) (h : n.toNat ≤ 125) :
    exec (.hdr7m b0 n) s = .next
      { s with
        inp := rest, hdr := { s.hdr with b1 := byteB1 true n, len := n.setWidth 64 }, cnt := 0, phase := .decKey } := by
  change passB1 (byteB1 true n) s = _
  rw [passB1_received _ hp hi, receiveB1_tier7 true h, keyStep_masked]
  exact maskBit_byteB1 true n

/-- An unmasked form of tier 7 as received: the payload is next, or the end. -/
theorem hdr7u_received {s : State} {x : Byte} {rest : List Byte} {n : BitVec 7} (b0 : Byte) (hp : s.phase = .decB1)
    (hi : s.inp = x :: rest) (h : n.toNat ≤ 125) :
    exec (.hdr7u b0 n) s = .next
      (payStart { s with
        inp := rest, hdr := { s.hdr with b1 := n.setWidth 8, len := n.setWidth 64, key := Key.zero }
        flags := { s.flags with dUnmasked := true } }) := by
  change passB1 (byteB1 false n) s = _
  rw [passB1_received _ hp hi, receiveB1_tier7 false h, keyStep_unmasked, byteB1_unmasked]
  · rfl
  · exact maskBit_byteB1 false n

/-- A form of another tier as received: the extended length is next. -/
theorem passB1_received_extended {s : State} {x : Byte} {rest : List Byte} {b : Byte} (hp : s.phase = .decB1)
    (hi : s.inp = x :: rest) (h : 125 < (len7 b).toNat) :
    passB1 b s = .next
      { s with inp := rest, hdr := { s.hdr with b1 := b, len := 0 }, cnt := 0, phase := .decExt } := by
  rw [passB1_received b hp hi, receiveB1_extended h]

/-- Settles O25: the tier of the form's byte decides what is next, and in tier 7 its mask bit. -/
theorem headerFormsAreReceived : Obligations.HeaderFormsAreReceived := by
  intro s b0 x rest n hp hi
  refine ⟨hdr7m_received b0 hp hi, fun h h0 => ?_, ?_, passB1_received_extended hp hi (by decide),
    passB1_received_extended hp hi (by decide), passB1_received_extended hp hi (by decide),
    passB1_received_extended hp hi (by decide)⟩
  · have hlen : n.setWidth 64 ≠ 0 := fun h => h0 (by bv_omega)
    rw [hdr7u_received b0 hp hi h, payStart_nonempty hlen]
    rfl
  · rw [hdr7u_received b0 hp hi (by decide), payStart_empty rfl]
    rfl

/-! ### Header bytes emitted -/

/-- A header byte goes out: the next index, or the payload, or the end (R155, R156). -/
theorem emitHeaderByte_eq (b : Byte) (s : State) :
    emitHeaderByte b s =
      if s.cnt.toNat + 1 < hdrlen s.hdr.b1 then { s with out := s.out ++ [b], cnt := s.cnt + 1 }
      else if s.hdr.len = 0 then
        { s with
          out := s.out ++ [b], cnt := 0, pos := 0, phase := .idle
          flags := { s.flags with busy := false, done := true } }
      else { s with out := s.out ++ [b], cnt := 0, pos := 0, phase := .payload } :=
  rfl

theorem passB1_emitted {s : State} (b : Byte) (hp : s.phase = .encHdr) (hc : s.cnt = 1) :
    passB1 b s = .next (emitHeaderByte b s) := by
  simp only [passB1, hp, hc, if_true]

/-- Each header form runs as `passB1` of its second byte (R83 to R85). -/
theorem exec_headerForm {b0 b : Byte} {n : BitVec 7} {i : Instr}
    (h : (i, b) ∈ [(Instr.hdr7m b0 n, 0x80#8 ||| n.setWidth 8), (.hdr7u b0 n, n.setWidth 8), (.hdr16m b0, 0xFE#8),
      (.hdr16u b0, 0x7E#8), (.hdr64m b0, 0xFF#8), (.hdr64u b0, 0x7F#8)]) (s : State) : exec i s = passB1 b s := by
  simp only [List.mem_cons, Prod.mk.injEq, List.not_mem_nil, or_false] at h
  obtain ⟨rfl, rfl⟩ | ⟨rfl, rfl⟩ | ⟨rfl, rfl⟩ | ⟨rfl, rfl⟩ | ⟨rfl, rfl⟩ | ⟨rfl, rfl⟩ := h
  case inr.inl => rw [← byteB1_unmasked]; rfl
  all_goals rfl

/-- Settles O26: whichever form it is, the step emits its byte at index 1. -/
theorem headerFormsAreEmitted : Obligations.HeaderFormsAreEmitted := by
  intro s b0 b n i hp hc h
  rw [exec_headerForm h, passB1_emitted b hp hc, emitHeaderByte_eq, hc]
  rfl

/-! ### First bytes -/

theorem passB0_received {s : State} {x : Byte} {rest : List Byte} (b : Byte) (hp : s.phase = .decB0)
    (hi : s.inp = x :: rest) :
    passB0 b s = .next
      { s with
        inp := rest, hdr := { s.hdr with b0 := b }, phase := .decB1
        flags := { s.flags with dMalformed := s.flags.dMalformed || !s.cfg.expectedB0.contains b } } := by
  simp only [passB0, hp, readOr_byte hi, receiveB0_eq]
  rfl

/-- The first header byte is never the last (R86, R155). -/
theorem passB0_emitted {s : State} (b : Byte) (hp : s.phase = .encHdr) (hc : s.cnt = 0) :
    passB0 b s = .next { s with out := s.out ++ [b], cnt := 1 } := by
  have hlen : 0 + 1 < hdrlen s.hdr.b1 := (hdrlen_bounds s.hdr.b1).1
  have hemit : emitHeaderByte b s = { s with out := s.out ++ [b], cnt := 1 } := by
    rw [emitHeaderByte_eq, hc]
    exact if_pos hlen
  simp only [passB0, hp, hc, if_true, hemit]

/-- Settles O27: `TEXT` and `BINARY` are the pass of the first byte with their opcode, here received. -/
theorem frameOpcodesAreReceived : Obligations.FrameOpcodesAreReceived :=
  fun _ _ _ _ hp hi => ⟨passB0_received _ hp hi, passB0_received _ hp hi⟩

/-- Settles O28: `TEXT` and `BINARY` are the pass of the first byte with their opcode, here emitted. -/
theorem frameOpcodesAreEmitted : Obligations.FrameOpcodesAreEmitted :=
  fun _ _ hp hc => ⟨passB0_emitted _ hp hc, passB0_emitted _ hp hc⟩

end Sys2Proof.Machine
end

section
/-! From a turn to the instruction it runs (R93, R94, R98, R154): what a `CTRL` write of the host and a byte about to pass
make the step. -/

namespace Sys2Proof.Machine

theorem step_run {s : State} {i : Instr} (h : fetch s = .run i) : step s = exec i (advance s) := by
  simp only [step, h]

/-! ### A `CTRL` write of the host -/

section HostTurn

variable {s : State} {v : Word} {ls : List HostLine} (ht : currentTurn s = .host)

include ht

theorem advance_hostLine {l : HostLine} (hh : s.host = l :: ls) :
    advance s = { s with host := ls, turns := laterTurns s } := by
  simp only [advance, ht, hh, List.tail_cons]

variable (hh : s.host = .wr 0x00 v :: ls)

include hh

theorem fetch_command {i : Instr} (h : decodeCtrl v = .ok i) : fetch s = .run i := by
  simp only [fetch, ht, hostMove, hh, regCtrl, if_true, h]

/-- A write without START is an update of the parameters (R93, R184). -/
theorem step_parameterUpdate {e : Reject} (h : decodeCtrl v = .error e) :
    step s = .next (regWrite 0x00 v { s with host := ls, turns := laterTurns s }) := by
  have hf : fetch s = .line (.wr 0x00 v) := by simp only [fetch, ht, hostMove, hh, regCtrl, if_true, h]
  simp only [step, hf, hostLine, advance_hostLine ht hh]

end HostTurn

/-- A command always answers a next state, busy or not (R94, R183). -/
theorem exec_command_next {i : Instr} (hc : i.row.carrier = .ctrl) (s : State) : ∃ t, exec i s = .next t := by
  cases hb : s.flags.busy with
  | true => exact ⟨s, exec_command_busy hc hb⟩
  | false => obtain ⟨o, k, m, rfl | rfl⟩ := command_cases hc <;> simp [exec, execMask, execUnmask, hb]

/-- Settles O41: a value decodes to a command, which always answers a next state, or the write is an update. -/
theorem everyControlValueIsAccepted : Obligations.EveryControlValueIsAccepted := by
  intro s v ls ht hh
  refine ⟨fun h0 h1 => fetch_command ht hh (decodeCtrl_mask h0 h1),
    fun h0 h1 => fetch_command ht hh (decodeCtrl_unmask h0 h1),
    fun h0 => step_parameterUpdate ht hh (decodeCtrl_noStart h0), ?_⟩
  cases hd : decodeCtrl v with
  | ok i =>
    rw [step_run (fetch_command ht hh hd)]
    exact exec_command_next (decodeCtrl_carrier hd) _
  | error e => exact ⟨_, step_parameterUpdate ht hh hd⟩

/-! ### A byte about to pass -/

theorem firstByteInstr_of_decodeB0 {b : Byte} {i : Instr} (codec : Instr) (h : decodeB0 b = .ok i) :
    firstByteInstr b codec = i := by
  simp only [firstByteInstr, h]

section SequencerTurn

variable {s : State} {src snk : Bool} {b : Byte} {rest : List Byte}

theorem seqInstr_decB0 (hp : s.phase = .decB0) (hr : sourceReady s src = true) (hi : s.inp = b :: rest) :
    seqInstr s src snk = some (firstByteInstr b .decode) := by
  simp only [seqInstr, hp, hr, hi, if_true]

theorem seqInstr_decB1 (hp : s.phase = .decB1) (hr : sourceReady s src = true) (hi : s.inp = b :: rest) :
    seqInstr s src snk = some (decodeHdr s.hdr.b0 b) := by
  simp only [seqInstr, hp, hr, hi, if_true]

theorem seqInstr_encHdr_first (hp : s.phase = .encHdr) (hc : s.cnt = 0) :
    seqInstr s src true = some (firstByteInstr s.hdr.b0 .encode) := by
  simp only [seqInstr, hp, hc, if_true]

theorem seqInstr_encHdr_second (hp : s.phase = .encHdr) (hc : s.cnt = 1) :
    seqInstr s src true = some (decodeHdr s.hdr.b0 s.hdr.b1) := by
  have h1 : (1 : BitVec 4) ≠ 0 := by decide
  simp only [seqInstr, hp, hc, h1, if_true, if_false]

variable (ht : currentTurn s = .seq src snk)

include ht

/-- A source with a byte has not reached its end, so the turn leaves `in_eos` alone (R56). -/
theorem advance_seq_byte (hi : s.inp = b :: rest) : advance s = { s with turns := laterTurns s } := by
  rw [advance_seq ht, hi]
  simp

theorem step_of_seqInstr {i j : Instr} (h : seqInstr s src snk = some j) (hj : j = i) : step s = exec i (advance s) := by
  subst hj
  refine step_run ?_
  simp only [fetch, ht, h]

end SequencerTurn

/-- Settles O45: the host's write decodes as the command it is, and in the four ways a header byte passes the sequencer
chooses the instruction the byte decodes to. -/
theorem stepRunsTheDecodedInstruction : Obligations.StepRunsTheDecodedInstruction := by
  intro s i
  refine ⟨fun v ls ht hh h => ?command, fun src snk b rest ht hr hi hp h => ?firstReceived,
    fun src snk b rest ht hr hi hp h => ?secondReceived, fun src ht hp hc h => ?firstEmitted,
    fun src ht hp hc h => ?secondEmitted⟩
  case command =>
    rw [step_run (fetch_command ht hh h), advance_hostLine ht hh]
  case firstReceived =>
    rw [decode_firstByte] at h
    rw [step_of_seqInstr ht (seqInstr_decB0 hp hr hi) (firstByteInstr_of_decodeB0 _ h), advance_seq_byte ht hi]
  case secondReceived =>
    rw [decode_hdrWord] at h
    rw [step_of_seqInstr ht (seqInstr_decB1 hp hr hi) (Except.ok.inj h), advance_seq_byte ht hi]
  case firstEmitted =>
    rw [decode_firstByte] at h
    rw [step_of_seqInstr ht (seqInstr_encHdr_first hp hc) (firstByteInstr_of_decodeB0 _ h), advance_seq ht]
  case secondEmitted =>
    rw [decode_hdrWord] at h
    rw [step_of_seqInstr ht (seqInstr_encHdr_second hp hc) (Except.ok.inj h), advance_seq ht]

end Sys2Proof.Machine
end

section
/-! The header codec as functions (R110 to R135): a header is two bytes, the bytes of its length and the bytes of its key.
Each part has its own facts, by tier where the tier matters, and every statement about `ENCODE`, `DECODE` and the header
bytes by index is put together from them. -/

namespace Sys2Proof.Machine

/-! ### The parts of an encoded header -/

/-- The extended-length bytes `ENCODE` emits for a length (R113 to R115). -/
def lengthBytes (n : DWord) : List Byte :=
  if n.toNat ≤ 125 then [] else if n.toNat ≤ 65535 then be16 n else be64 n

/-- The key bytes `ENCODE` emits (R116, R119). -/
def keyPart (m : Bool) (k : Key) : List Byte := if m then keyBytes k else []

theorem encodeHeader_eq (n : DWord) (o : BitVec 4) (m : Bool) (k : Key) :
    encodeHeader n o m k = firstByte o :: byteB1 m (len7code n) :: (lengthBytes n ++ keyPart m k) := rfl

/-- The 7-bit code of a length and its extended-length bytes, tier by tier (R112). -/
theorem length_tiers (n : DWord) :
    (n.toNat ≤ 125 ∧ len7code n = n.setWidth 7 ∧ lengthBytes n = []) ∨
    (125 < n.toNat ∧ n.toNat ≤ 65535 ∧ len7code n = 126#7 ∧ lengthBytes n = be16 n) ∨
    (65535 < n.toNat ∧ len7code n = 127#7 ∧ lengthBytes n = be64 n) := by
  unfold len7code lengthBytes
  split_ifs with h7 h16
  · exact .inl ⟨h7, rfl, rfl⟩
  · exact .inr (.inl ⟨by omega, h16, rfl, rfl⟩)
  · exact .inr (.inr ⟨by omega, rfl, rfl⟩)

theorem extlen_tier7 {b1 : Byte} (h : (len7 b1).toNat ≤ 125) : extlen b1 = 0 := if_pos h

theorem extlen_tier16 {b1 : Byte} (h : (len7 b1).toNat = 126) : extlen b1 = 2 := by simp [extlen, h]

theorem extlen_tier64 {b1 : Byte} (h : (len7 b1).toNat = 127) : extlen b1 = 8 := by simp [extlen, h]

/-- The second byte `ENCODE` emits announces the extended-length bytes that follow it. -/
theorem extlen_encoded (m : Bool) (n : DWord) : extlen (byteB1 m (len7code n)) = (lengthBytes n).length := by
  obtain ⟨h, hc, hb⟩ | ⟨-, -, hc, hb⟩ | ⟨-, hc, hb⟩ := length_tiers n
  · rw [hb, extlen_tier7]
    · rfl
    · rw [len7_byteB1, hc, BitVec.toNat_setWidth]; omega
  · rw [hb, extlen_tier16]
    · rfl
    · rw [len7_byteB1, hc]; rfl
  · rw [hb, extlen_tier64]
    · rfl
    · rw [len7_byteB1, hc]; rfl

/-- The second byte `ENCODE` emits announces the key bytes of the header. -/
theorem keylen_encoded (m : Bool) (c : BitVec 7) (k : Key) : keylen (byteB1 m c) = (keyPart m k).length := by
  rw [keylen, maskBit_byteB1]
  cases m <;> rfl

theorem encodeHeader_length (n : DWord) (o : BitVec 4) (m : Bool) (k : Key) :
    (encodeHeader n o m k).length = hdrlen (byteB1 m (len7code n)) := by
  rw [encodeHeader_eq, hdrlen, extlen_encoded, keylen_encoded m _ k]
  simp only [List.length_cons, List.length_append]
  omega

theorem lengthBytes_length (n : DWord) :
    (lengthBytes n).length = if n.toNat ≤ 125 then 0 else if n.toNat ≤ 65535 then 2 else 8 := by
  unfold lengthBytes
  split_ifs <;> rfl

/-! ### `ENCODE` tier by tier -/

/-- In tier 7 the second byte is the length with the mask bit above it (R113). -/
theorem byteB1_tier7 {n : DWord} (h : n.toNat ≤ 125) : byteB1 true (n.setWidth 7) = 0x80#8 ||| n.setWidth 8 := by
  have hn : (n.setWidth 7).setWidth 8 = n.setWidth 8 := by bv_omega
  rw [← hn]
  rfl

/-- Settles O5: each tier has its second byte and its length bytes; the first byte and the key are the same in all. -/
theorem encodeHeaderByTier : Obligations.EncodeHeaderByTier := by
  intro n o k
  rw [encodeHeader_eq]
  obtain ⟨h, hc, hb⟩ | ⟨hlo, hhi, hc, hb⟩ | ⟨h, hc, hb⟩ := length_tiers n <;> rw [hc, hb]
  · refine ⟨fun _ => ?_, fun _ => by omega, fun _ => by omega⟩
    rw [byteB1_tier7 h]
    rfl
  · exact ⟨fun _ => by omega, fun _ _ => rfl, fun _ => by omega⟩
  · exact ⟨fun _ => by omega, fun _ _ => by omega, fun _ => rfl⟩

/-- Settles O6: the two headers share the first byte and the length bytes; the second byte of the unmasked one is the bare
7-bit code. -/
theorem unmaskedHeaderHasNoKey : Obligations.UnmaskedHeaderHasNoKey := by
  intro n o k
  have hu : encodeHeader n o false k = firstByte o :: (len7code n).setWidth 8 :: lengthBytes n := by
    rw [encodeHeader_eq, byteB1_unmasked, keyPart, if_neg (by decide), List.append_nil]
  rw [hu]
  refine ⟨rfl, rfl, ?_⟩
  rw [List.length_cons, List.length_cons, lengthBytes_length]
  split_ifs <;> rfl

/-- Settles O7: two bytes, the length bytes of the tier and four key bytes; `encodeHeader_length` has the second byte's own
account. -/
theorem encodeHeaderLength : Obligations.EncodeHeaderLength := by
  intro n o k
  refine ⟨?_, _, rfl, encodeHeader_length n o true k⟩
  rw [encodeHeader_length, hdrlen, extlen_encoded, lengthBytes_length, keylen, maskBit_byteB1, if_pos rfl]
  split_ifs <;> rfl

/-! ### Header bytes by index -/

/-- There is a header byte at exactly the indexes below the header's length (R120). -/
theorem hdrByte_eq_none_iff (h : Header) (i : Nat) : hdrByte h i = none ↔ hdrlen h.b1 ≤ i := by
  have hlen : hdrlen h.b1 = 2 + extlen h.b1 + keylen h.b1 := rfl
  dsimp only [hdrByte]
  split_ifs <;> simp <;> omega

theorem hdrByte_length {h : Header} {j : Nat} (hj : j < extlen h.b1) :
    hdrByte h (j + 2) = some (h.len.extractLsb' (8 * (extlen h.b1 - 1 - j)) 8) := by
  simp [hdrByte, show j + 2 < 2 + extlen h.b1 by omega]

theorem hdrByte_key {h : Header} {j : Nat} (hj : j < keylen h.b1) :
    hdrByte h (extlen h.b1 + j + 2) = some (keyAt h.key (BitVec.ofNat 2 j)) := by
  have hlen : extlen h.b1 + j + 2 < hdrlen h.b1 := by rw [hdrlen]; omega
  have hsub : extlen h.b1 + j - extlen h.b1 = j := by omega
  simp [hdrByte, hlen, hsub, show ¬ extlen h.b1 + j + 2 < 2 + extlen h.b1 by omega]

/-- The extended-length bytes are the low bytes of the length, most significant first (R11). -/
theorem lengthBytes_getElem? {n : DWord} {j : Nat} (hj : j < (lengthBytes n).length) :
    (lengthBytes n)[j]? = some (n.extractLsb' (8 * ((lengthBytes n).length - 1 - j)) 8) := by
  obtain ⟨-, -, hb⟩ | ⟨-, -, -, hb⟩ | ⟨-, -, hb⟩ := length_tiers n <;> rw [hb] at hj ⊢
  · simp at hj
  · obtain rfl | rfl : j = 0 ∨ j = 1 := by simp [be16] at hj; omega
    all_goals rfl
  · obtain rfl | rfl | rfl | rfl | rfl | rfl | rfl | rfl :
        j = 0 ∨ j = 1 ∨ j = 2 ∨ j = 3 ∨ j = 4 ∨ j = 5 ∨ j = 6 ∨ j = 7 := by simp [be64] at hj; omega
    all_goals rfl

theorem keyPart_getElem? {m : Bool} {k : Key} {j : Nat} (hj : j < (keyPart m k).length) :
    (keyPart m k)[j]? = some (keyAt k (BitVec.ofNat 2 j)) := by
  cases m with
  | false => simp [keyPart] at hj
  | true =>
    obtain rfl | rfl | rfl | rfl : j = 0 ∨ j = 1 ∨ j = 2 ∨ j = 3 := by simp [keyPart, keyBytes] at hj; omega
    all_goals rfl

/-- The header record of an encoder, read by index, is its header (R120). -/
theorem hdrByte_encoded (n : DWord) (o : BitVec 4) (m : Bool) (k : Key) (i : Nat) :
    hdrByte ⟨firstByte o, byteB1 m (len7code n), n, k⟩ i = (encodeHeader n o m k)[i]? := by
  by_cases hi : hdrlen (byteB1 m (len7code n)) ≤ i
  · have hnone := (hdrByte_eq_none_iff ⟨firstByte o, byteB1 m (len7code n), n, k⟩ i).mpr hi
    rw [hnone, List.getElem?_eq_none]
    rwa [encodeHeader_length]
  have he := extlen_encoded m n
  have hk := keylen_encoded m (len7code n) k
  match i with
  | 0 => rfl
  | 1 => rfl
  | j + 2 =>
    change _ = (lengthBytes n ++ keyPart m k)[j]?
    by_cases hj : j < (lengthBytes n).length
    · rw [List.getElem?_append_left hj, lengthBytes_getElem? hj, hdrByte_length (he ▸ hj), he]
    · obtain ⟨l, rfl⟩ := Nat.exists_eq_add_of_le (not_lt.mp hj)
      have hl : l < (keyPart m k).length := by rw [hdrlen] at hi; omega
      rw [List.getElem?_append_right (by omega), Nat.add_sub_cancel_left, keyPart_getElem? hl, ← he]
      exact hdrByte_key (hk ▸ hl)

/-- Settles O8: what `MASK` loads is an encoder's header record. -/
theorem headerBytesByIndexAreEncode : Obligations.HeaderBytesByIndexAreEncode :=
  fun s i => hdrByte_encoded s.len (opc s.ctrl.opsel) (maskEnabled s) (maskKey s) i

/-! ### Big-endian numbers -/

theorem accumulate_toNat {n : DWord} (b : Byte) (h : n.toNat < 2 ^ 56) :
    (accumulate n b).toNat = n.toNat * 256 + b.toNat := by
  have hshift : (n <<< 8).toNat = 2 ^ 8 * n.toNat := by
    rw [BitVec.toNat_shiftLeft, Nat.shiftLeft_eq]; omega
  have hbyte : (b.setWidth 64).toNat = b.toNat := by
    rw [BitVec.toNat_setWidth]; have := b.isLt; omega
  rw [accumulate, BitVec.toNat_or, hshift, hbyte, ← Nat.two_pow_add_eq_or_of_lt b.isLt]
  omega

/-- The number big-endian bytes spell after `v`, without a width. -/
def beNat (v : Nat) (bytes : List Byte) : Nat := bytes.foldl (fun v b => v * 256 + b.toNat) v

theorem foldl_accumulate_toNat {bytes : List Byte} {n : DWord} {c : Nat} (hn : n.toNat < 256 ^ c)
    (hlen : c + bytes.length ≤ 8) : (bytes.foldl accumulate n).toNat = beNat n.toNat bytes := by
  induction bytes generalizing n c with
  | nil => rfl
  | cons b rest ih =>
    rw [List.length_cons] at hlen
    have hsmall : n.toNat < 2 ^ 56 := hn.trans_le (by
      calc 256 ^ c ≤ 256 ^ 7 := Nat.pow_le_pow_right (by decide) (by omega)
        _ = 2 ^ 56 := by decide)
    rw [List.foldl_cons, ih (accumulate_lt b hn) (by omega), accumulate_toNat b hsmall]
    rfl

/-- Up to eight bytes fit the 64 bits of a length, so none is lost (R58, R134). -/
theorem beValue_toNat {bytes : List Byte} (h : bytes.length ≤ 8) : (beValue bytes).toNat = beNat 0 bytes :=
  foldl_accumulate_toNat (n := 0) (c := 0) (by decide) (by omega)

/-- Reading the byte of a number at bit `a` moves on from what stands above that byte to what includes it. -/
theorem beNat_extract (n : DWord) (a : Nat) (rest : List Byte) :
    beNat (n.toNat >>> (a + 8)) (n.extractLsb' a 8 :: rest) = beNat (n.toNat >>> a) rest := by
  have hstep : n.toNat >>> (a + 8) * 256 + (n.extractLsb' a 8).toNat = n.toNat >>> a := by
    rw [BitVec.extractLsb'_toNat, Nat.shiftRight_add, Nat.shiftRight_eq_div_pow _ 8]
    omega
  rw [← hstep]
  rfl

theorem beValue_be16 {n : DWord} (h : n.toNat ≤ 65535) : beValue (be16 n) = n := by
  apply BitVec.eq_of_toNat_eq
  have habove : n.toNat >>> 16 = 0 := by rw [Nat.shiftRight_eq_div_pow]; omega
  rw [beValue_toNat (by simp [be16]), ← habove, be16, beNat_extract n 8, beNat_extract n 0]
  rfl

theorem beValue_be64 (n : DWord) : beValue (be64 n) = n := by
  apply BitVec.eq_of_toNat_eq
  have habove : n.toNat >>> 64 = 0 := by rw [Nat.shiftRight_eq_div_pow]; omega
  rw [beValue_toNat (by simp [be64]), ← habove, be64, beNat_extract n 56, beNat_extract n 48, beNat_extract n 40,
    beNat_extract n 32, beNat_extract n 24, beNat_extract n 16, beNat_extract n 8, beNat_extract n 0]
  rfl

/-! ### `DECODE` part by part -/

theorem decodeHeader_cons_cons (p : Params) (b0 b1 : Byte) (rest : List Byte) :
    decodeHeader p (b0 :: b1 :: rest) = decodeLength b0 b1 (!markerOk p b0) rest := rfl

/-- A tier 7 length is complete with the second byte (R127). -/
theorem decodeLength_tier7 {b0 b1 : Byte} {mal : Bool} {bytes : List Byte} (h : (len7 b1).toNat ≤ 125) :
    decodeLength b0 b1 mal bytes = decodeKey ⟨b0, b1, (len7 b1).setWidth 64, Key.zero⟩ mal bytes := by
  simp [decodeLength, extlen_tier7 h]

/-- An extended length whose bytes are all there (R128, R129). -/
theorem decodeLength_extended {b0 b1 : Byte} {mal : Bool} {ext : List Byte} (bytes : List Byte) (h0 : 0 < extlen b1)
    (h : extlen b1 = ext.length) :
    decodeLength b0 b1 mal (ext ++ bytes) = decodeKey ⟨b0, b1, beValue ext, Key.zero⟩ mal bytes := by
  simp [decodeLength, h, show ext ≠ [] by rintro rfl; simp_all]

/-- An extended length that the stream breaks off (R131). -/
theorem decodeLength_short {b0 b1 : Byte} {mal : Bool} {bytes : List Byte} (h : bytes.length < extlen b1) :
    decodeLength b0 b1 mal bytes = ⟨⟨b0, b1, beValue bytes, Key.zero⟩, mal, false, true, []⟩ := by
  simp [decodeLength, h, show extlen b1 ≠ 0 by omega]

theorem decodeKey_unmasked {h : Header} {mal : Bool} {bytes : List Byte} (hm : maskBit h.b1 = false) :
    decodeKey h mal bytes = ⟨{ h with key := Key.zero }, mal, true, false, bytes⟩ := by
  simp [decodeKey, hm]

/-- Whatever there is of the key, the other fields of the record are complete before it (R133). -/
theorem decodeKey_hdr (h : Header) (mal : Bool) (bytes : List Byte) :
    ∃ k, (decodeKey h mal bytes).hdr = { h with key := k } := by
  unfold decodeKey
  split
  · split <;> exact ⟨_, rfl⟩
  · exact ⟨_, rfl⟩

theorem decodeKey_len (h : Header) (mal : Bool) (bytes : List Byte) : (decodeKey h mal bytes).hdr.len = h.len := by
  obtain ⟨k, hk⟩ := decodeKey_hdr h mal bytes
  rw [hk]

/-! ### `DECODE` of an encoded header -/

/-- `DECODE` of the length bytes `ENCODE` emits is the length (R135). -/
theorem decodeLength_encoded (b0 : Byte) (n : DWord) (m mal : Bool) (bytes : List Byte) :
    decodeLength b0 (byteB1 m (len7code n)) mal (lengthBytes n ++ bytes) =
      decodeKey ⟨b0, byteB1 m (len7code n), n, Key.zero⟩ mal bytes := by
  have he := extlen_encoded m n
  obtain ⟨h, hc, hb⟩ | ⟨-, h, hc, hb⟩ | ⟨-, hc, hb⟩ := length_tiers n <;> rw [hb] at he ⊢
  · have hn : ((n.setWidth 7).setWidth 64).toNat = n.toNat := by
      rw [BitVec.toNat_setWidth, BitVec.toNat_setWidth]; omega
    have hl : len7 (byteB1 m (len7code n)) = n.setWidth 7 := by rw [len7_byteB1, hc]
    rw [List.nil_append, decodeLength_tier7 (by rw [hl, BitVec.toNat_setWidth]; omega), hl, BitVec.eq_of_toNat_eq hn]
  · rw [decodeLength_extended bytes (by simp [he, be16]) he, beValue_be16 h]
  · rw [decodeLength_extended bytes (by simp [he, be64]) he, beValue_be64]

/-- `DECODE` of the key bytes `ENCODE` emits is the key, or none (R130, R135). -/
theorem decodeKey_encoded {h : Header} {m : Bool} (hm : maskBit h.b1 = m) (k : Key) (mal : Bool) (rest : List Byte) :
    decodeKey h mal (keyPart m k ++ rest) = ⟨{ h with key := if m then k else Key.zero }, mal, !m, false, rest⟩ := by
  cases m with
  | false => exact decodeKey_unmasked hm
  | true => simp [decodeKey, hm, keyPart, keyBytes]

/-- Settles O9: the first two bytes, then the length, then the key are read back, each consuming its own bytes. -/
theorem decodeHeaderInvertsEncodeHeader : Obligations.DecodeHeaderInvertsEncodeHeader := by
  intro p n o m k rest
  calc decodeHeader p (encodeHeader n o m k ++ rest)
    _ = decodeLength (firstByte o) (byteB1 m (len7code n)) (!markerOk p (firstByte o))
          (lengthBytes n ++ (keyPart m k ++ rest)) := by
        rw [encodeHeader_eq, List.cons_append, List.cons_append, List.append_assoc, decodeHeader_cons_cons]
    _ = decodeKey ⟨firstByte o, byteB1 m (len7code n), n, Key.zero⟩ (!markerOk p (firstByte o))
          (keyPart m k ++ rest) := decodeLength_encoded _ n m _ _
    _ = _ := by
        rw [decodeKey_encoded (m := m)]
        · rfl
        · exact maskBit_byteB1 m _

/-- An extended length whose bytes are all there is the number they spell, whatever the key (R128, R129, R133). -/
theorem decodeHeader_extended_len (p : Params) (b0 : Byte) {b1 : Byte} {ext : List Byte} (rest : List Byte)
    (h0 : 0 < extlen b1) (h : extlen b1 = ext.length) :
    (decodeHeader p (b0 :: b1 :: (ext ++ rest))).hdr.len.toNat = beNat 0 ext := by
  rw [decodeHeader_cons_cons, decodeLength_extended rest h0 h, decodeKey_len, beValue_toNat (h ▸ extlen_le b1)]

/-- Settles O10: the length is complete before the key is read, and its bytes spell it. -/
theorem decodedLengthIsWhatTheTierSpells : Obligations.DecodedLengthIsWhatTheTierSpells := by
  intro p b0 b1 rest
  refine ⟨fun h => ?tier7, fun e0 e1 h => ?tier16, fun e0 e1 e2 e3 e4 e5 e6 e7 h => ?tier64⟩
  case tier7 =>
    obtain ⟨hlen, -⟩ := lengthFits_tier7 h
    rw [decodeHeader_cons_cons, decodeLength_tier7 h, decodeKey_len]
    exact hlen h
  case tier16 =>
    have he := extlen_tier16 h
    refine (decodeHeader_extended_len p b0 (ext := [e0, e1]) rest (by omega) he).trans ?_
    simp only [beNat, List.foldl]
    omega
  case tier64 =>
    have he := extlen_tier64 h
    refine (decodeHeader_extended_len p b0 (ext := [e0, e1, e2, e3, e4, e5, e6, e7]) rest (by omega) he).trans ?_
    simp only [beNat, List.foldl]
    omega

/-! ### What `DECODE` consumes -/

/-- `r` is the outcome of reading `count` of the `bytes`: all of them, or a truncated header (R131, R132). -/
def Consumes (r : HeaderRead) (bytes : List Byte) (count : Nat) : Prop :=
  (count ≤ bytes.length ∧ r.truncated = false ∧ r.rest = bytes.drop count) ∨
  (bytes.length < count ∧ r.truncated = true ∧ r.rest = [])

theorem decodeKey_consumes (h : Header) (mal : Bool) (bytes : List Byte) :
    Consumes (decodeKey h mal bytes) bytes (keylen h.b1) := by
  unfold keylen decodeKey
  split
  · split
    · exact .inl ⟨by simp, rfl, rfl⟩
    all_goals exact .inr ⟨by simp, rfl, rfl⟩
  · exact .inl ⟨by simp, rfl, rfl⟩

theorem Consumes.after {r : HeaderRead} {ext bytes : List Byte} {count : Nat} (h : Consumes r bytes count) :
    Consumes r (ext ++ bytes) (ext.length + count) := by
  obtain ⟨hle, ht, hr⟩ | ⟨hlt, ht, hr⟩ := h
  · exact .inl ⟨by simpa using hle, ht, by rw [hr, List.drop_append]; simp⟩
  · exact .inr ⟨by simpa using hlt, ht, hr⟩

/-- The length and the key are read as `B1` declares them, and the two bytes before them are kept (R86, R132). -/
theorem decodeLength_consumes (b0 b1 : Byte) (mal : Bool) (bytes : List Byte) :
    Consumes (decodeLength b0 b1 mal bytes) bytes (extlen b1 + keylen b1) ∧
      (decodeLength b0 b1 mal bytes).hdr.b0 = b0 ∧ (decodeLength b0 b1 mal bytes).hdr.b1 = b1 := by
  have hkey (n : DWord) (ext rest : List Byte) (he : extlen b1 = ext.length) :
      Consumes (decodeKey ⟨b0, b1, n, Key.zero⟩ mal rest) (ext ++ rest) (extlen b1 + keylen b1) ∧
        (decodeKey ⟨b0, b1, n, Key.zero⟩ mal rest).hdr.b0 = b0 ∧
        (decodeKey ⟨b0, b1, n, Key.zero⟩ mal rest).hdr.b1 = b1 := by
    obtain ⟨k, hk⟩ := decodeKey_hdr ⟨b0, b1, n, Key.zero⟩ mal rest
    rw [hk, he]
    exact ⟨(decodeKey_consumes _ mal rest).after, rfl, rfl⟩
  by_cases h7 : (len7 b1).toNat ≤ 125
  · rw [decodeLength_tier7 h7]
    exact hkey _ [] bytes (extlen_tier7 h7)
  by_cases hs : bytes.length < extlen b1
  · rw [decodeLength_short hs]
    exact ⟨.inr ⟨by omega, rfl, rfl⟩, rfl, rfl⟩
  · have he : extlen b1 = (bytes.take (extlen b1)).length := by rw [List.length_take]; omega
    have hkey' := hkey (beValue (bytes.take (extlen b1))) _ (bytes.drop (extlen b1)) he
    rwa [← decodeLength_extended _ (extlen_pos (by omega)) he, List.take_append_drop] at hkey'

/-- Settles O11: past the first two bytes `DECODE` reads what is left of `hdrlen(B1)`. -/
theorem decodeConsumesExactlyTheHeader : Obligations.DecodeConsumesExactlyTheHeader := by
  intro p bytes
  match bytes with
  | [] => simp [decodeHeader]
  | [b0] => simp [decodeHeader]
  | b0 :: b1 :: rest =>
    rw [decodeHeader_cons_cons]
    obtain ⟨hread, h0, h1⟩ := decodeLength_consumes b0 b1 (!markerOk p b0) rest
    have hhdr : Consumes (decodeLength b0 b1 (!markerOk p b0) rest) (b0 :: b1 :: rest) (hdrlen b1) := by
      rw [hdrlen, Nat.add_assoc]
      exact hread.after (ext := [b0, b1])
    obtain ⟨hle, ht, hr⟩ | ⟨hlt, ht, hr⟩ := hhdr
    · exact ⟨fun _ => ⟨b0, b1, rest, rfl, hle, hr, h0, h1⟩, fun h => by simp [ht] at h⟩
    · refine ⟨fun h => by simp [ht] at h, fun _ => ⟨hr, ?_⟩⟩
      rintro _ _ _ ⟨⟩
      exact hlt

/-! ### Indexes out of range -/

theorem execEncode_fault_iff {s : State} (hp : s.phase = .encHdr) :
    execEncode s = .fault .headerIndexOutOfRange ↔ hdrByte s.hdr s.cnt.toNat = none := by
  cases hb : hdrByte s.hdr s.cnt.toNat <;> simp [execEncode, hp, hb]

theorem receiveKey_fault_iff (b : Byte) (s : State) :
    receiveKey b s = .fault .keyIndexOutOfRange ↔ 4 ≤ s.cnt.toNat := by
  unfold receiveKey
  split_ifs <;> simp <;> omega

theorem execDecode_key_fault_iff {s : State} (hp : s.phase = .decKey) (hi : s.inp ≠ []) :
    execDecode s = .fault .keyIndexOutOfRange ↔ 4 ≤ s.cnt.toNat := by
  obtain ⟨b, rest, hi⟩ := List.exists_cons_of_ne_nil hi
  have hread : execDecode s = receiveKey b { s with inp := rest } := by simp only [execDecode, hp, readOr_byte hi]
  rw [hread, receiveKey_fault_iff]

/-- Settles O55: `ENCODE` stops where there is no header byte, `DECODE` where there is no key byte, and the invariant's
range of `CNT` excludes both. -/
theorem indexFaultsOnlyOutOfRange : Obligations.IndexFaultsOnlyOutOfRange := by
  intro s
  refine ⟨fun hp => (execEncode_fault_iff hp).trans (hdrByte_eq_none_iff _ _), execDecode_key_fault_iff,
    fun hp hle hinv => ?_, fun hp hle hinv => ?_⟩ <;>
    obtain ⟨-, -, ⟨-, henc, -, hkey⟩, -⟩ := hinv
  · exact absurd (henc hp) (by omega)
  · exact absurd (hkey hp) (by omega)

end Sys2Proof.Machine
end

section
/-! The masking transform (R140 to R148): a payload byte meets the key byte that the two low bits of its offset name, and the
transform of a payload is that of each byte at its own offset. -/

namespace Sys2Proof.Machine

/-! ### One byte -/

/-- The low two bits of an offset name the key byte at the offset modulo 4 of the key's array (R140, R146). -/
theorem keyBytes_getElem?_mod (k : Key) (p : DWord) :
    (keyBytes k)[p.toNat % 4]? = some (keyAt k (p.extractLsb' 0 2)) := by
  have hbits : BitVec.ofNat 2 (p.toNat % 4) = p.extractLsb' 0 2 := by
    apply BitVec.eq_of_toNat_eq
    simp
  have hget : (keyBytes k)[p.toNat % 4]? = some (keyAt k (BitVec.ofNat 2 (p.toNat % 4))) :=
    keyPart_getElem? (m := true) (Nat.mod_lt _ (by decide : 0 < 4))
  rw [hget, hbits]

theorem applyByte_eq_xor (b : Byte) (p : DWord) (k : Key) :
    applyByte b p k = b ^^^ ((keyBytes k)[p.toNat % 4]?.getD 0) := by
  rw [keyBytes_getElem?_mod]
  rfl

@[simp] theorem applyByte_applyByte (b : Byte) (p : DWord) (k : Key) : applyByte (applyByte b p k) p k = b := by
  rw [applyByte, applyByte, BitVec.xor_assoc, BitVec.xor_self, BitVec.xor_zero]

@[simp] theorem keyAt_zero (i : BitVec 2) : keyAt Key.zero i = 0#8 := by
  unfold keyAt
  split_ifs <;> rfl

@[simp] theorem applyByte_zero (b : Byte) (p : DWord) : applyByte b p Key.zero = b := by
  simp [applyByte]

/-- Settles O12: `APPLY` is one XOR with the key byte at the offset modulo 4, and the bytes of the zero key are zero. -/
theorem applyIsXorWithRotatingKeyAndSelfInverse : Obligations.ApplyIsXorWithRotatingKeyAndSelfInverse :=
  fun b p k => ⟨applyByte_eq_xor b p k, applyByte_applyByte b p k, applyByte_zero b p⟩

/-! ### A payload -/

/-- Byte `i` of the result depends on byte `i` of the payload only, at `i` places after the first offset (R142, R145). -/
theorem transform_getElem? (k : Key) (p : DWord) (bytes : List Byte) (i : Nat) :
    (transform k p bytes)[i]? = bytes[i]?.map (fun b => applyByte b (p + BitVec.ofNat 64 i) k) := by
  induction bytes generalizing p i with
  | nil => rfl
  | cons b rest ih =>
    cases i with
    | zero => simp [transform]
    | succ i =>
      have hnext : p + 1 + BitVec.ofNat 64 i = p + BitVec.ofNat 64 (i + 1) := by
        rw [Nat.add_comm i 1, BitVec.ofNat_add, BitVec.add_assoc]
        rfl
      rw [transform, List.getElem?_cons_succ, List.getElem?_cons_succ, ih, hnext]

@[simp] theorem transform_transform (k : Key) (p : DWord) (bytes : List Byte) :
    transform k p (transform k p bytes) = bytes := by
  induction bytes generalizing p with
  | nil => rfl
  | cons b rest ih => rw [transform, transform, applyByte_applyByte, ih]

/-- An offset that wraps at 2^64 still meets the same key byte, since 4 divides 2^64 (R146). -/
theorem offset_toNat_mod_four (p : DWord) (i : Nat) : (p + BitVec.ofNat 64 i).toNat % 4 = (p.toNat + i) % 4 := by
  rw [BitVec.toNat_add, BitVec.toNat_ofNat]
  omega

/-- Settles O13: each byte is transformed by `APPLY` at its own offset, and twice at the same offset is the identity. -/
theorem transformRotatesTheKeyAndUndoesItself : Obligations.TransformRotatesTheKeyAndUndoesItself := by
  refine fun k p bytes => ⟨fun i => ?_, transform_transform k p bytes⟩
  simp only [transform_getElem?, applyByte_eq_xor, offset_toNat_mod_four, keyBytes]

end Sys2Proof.Machine
end

section
/-! The operation of each phase in closed form (R154 to R162): what `ENCODE`, `DECODE` and `APPLY` do with an item of their own
phase, that they and the wire forms do nothing in another one, and the arrows of the phase graph (R163). -/

namespace Sys2Proof.Machine

/-! ### An operation in its own phase -/

section OwnPhase

variable {s : State} {b : Byte} {rest : List Byte}

theorem exec_encode_byte (hp : s.phase = .encHdr) (hb : hdrByte s.hdr s.cnt.toNat = some b) :
    exec .encode s = .next (emitHeaderByte b s) := by
  simp only [exec, execEncode, hp, hb]

theorem exec_decode_eos (hp : headerPhase s.phase) (hi : s.inp = []) :
    exec .decode s = .next (raise .truncatedHeader s) := by
  cases hs : s.phase with
  | idle | encHdr | payload => simp [headerPhase, hs] at hp
  | decB0 | decB1 | decExt | decKey => simp only [exec, execDecode, hs, readOr_eos hi]

theorem exec_decode_firstByte (hp : s.phase = .decB0) (hi : s.inp = b :: rest) :
    exec .decode s = .next (receiveB0 b { s with inp := rest }) := by
  simp only [exec, execDecode, hp, readOr_byte hi]

theorem exec_decode_secondByte (hp : s.phase = .decB1) (hi : s.inp = b :: rest) :
    exec .decode s = .next (receiveB1 b { s with inp := rest }) := by
  simp only [exec, execDecode, hp, readOr_byte hi]

theorem exec_decode_lengthByte (hp : s.phase = .decExt) (hi : s.inp = b :: rest) :
    exec .decode s = .next (receiveExt b { s with inp := rest }) := by
  simp only [exec, execDecode, hp, readOr_byte hi]

theorem exec_decode_keyByte (hp : s.phase = .decKey) (hi : s.inp = b :: rest) :
    exec .decode s = receiveKey b { s with inp := rest } := by
  simp only [exec, execDecode, hp, readOr_byte hi]

theorem exec_apply_eos (hp : s.phase = .payload) (hi : s.inp = []) :
    exec .apply s = .next (raise .unexpectedEndOfStream s) := by
  simp only [exec, execApply, hp, readOr_eos hi]

theorem exec_apply_byte (hp : s.phase = .payload) (hi : s.inp = b :: rest) :
    exec .apply s = .next (payAdvance (outWrite (applyByte b s.pos s.hdr.key) { s with inp := rest })) := by
  simp only [exec, execApply, hp, readOr_byte hi]

end OwnPhase

/-- `PAYSTART` written out (R156). -/
theorem payStart_eq (s : State) :
    payStart s =
      if s.hdr.len = 0 then
        { s with cnt := 0, pos := 0, phase := .idle, flags := { s.flags with busy := false, done := true } }
      else { s with cnt := 0, pos := 0, phase := .payload } := rfl

/-- `KEYSTEP` written out: the key, or for an unmasked frame the zero key and what follows a header (R161, R199). -/
theorem keyStep_eq (s : State) :
    keyStep s =
      if maskBit s.hdr.b1 then { s with cnt := 0, phase := .decKey }
      else if s.hdr.len = 0 then
        { s with
          hdr := { s.hdr with key := Key.zero }, cnt := 0, pos := 0, phase := .idle
          flags := { s.flags with busy := false, done := true, dUnmasked := true } }
      else
        { s with
          hdr := { s.hdr with key := Key.zero }, cnt := 0, pos := 0, phase := .payload
          flags := { s.flags with dUnmasked := true } } := rfl

/-- Settles O17: the byte goes out and the step goes on to the next index, the payload or the end. -/
theorem encodeEmitsOneHeaderByte : Obligations.EncodeEmitsOneHeaderByte := by
  intro s b hp hb
  rw [exec_encode_byte hp hb, emitHeaderByte_eq]

/-- Settles O18: the byte is received, and `receiveB0_eq` writes out what that does. -/
theorem decodeReadsFirstByte : Obligations.DecodeReadsFirstByte := by
  intro s b rest hp hi
  rw [exec_decode_firstByte hp hi, receiveB0_eq]
  rfl

/-- Settles O19: a tier 7 byte completes the length, any other begins an extended one. -/
theorem decodeReadsSecondByte : Obligations.DecodeReadsSecondByte := by
  intro s b rest hp hi
  rw [exec_decode_secondByte hp hi]
  obtain ⟨h7, e⟩ | ⟨h7, e⟩ := receiveB1_cases b { s with inp := rest } <;> rw [e]
  · have hlen : (len7 b).setWidth 64 = 0 ↔ len7 b = 0 := ⟨fun h => by bv_omega, fun h => by rw [h]; rfl⟩
    rw [if_neg (Nat.not_lt.mpr h7), keyStep_eq]
    simp only [maskBit, hlen]
    by_cases h0 : len7 b = 0
    · simp only [h0, if_true]; rfl
    · simp only [h0, if_false]; rfl
  · rw [if_pos h7]

/-- Settles O20: the byte is accumulated; the last one completes the length. -/
theorem decodeReadsLengthByte : Obligations.DecodeReadsLengthByte := by
  intro s b rest hp hi
  rw [exec_decode_lengthByte hp hi]
  obtain ⟨hc, e⟩ | ⟨hc, e⟩ := receiveExt_cases b { s with inp := rest } <;> rw [e]
  · rw [if_pos hc]; rfl
  · rw [if_neg (Nat.not_lt.mpr hc), keyStep_eq]
    by_cases h0 : accumulate s.hdr.len b = 0
    · have h0' : s.hdr.len <<< 8 ||| b.setWidth 64 = 0 := h0
      simp only [h0, h0', if_true]; rfl
    · have h0' : ¬ s.hdr.len <<< 8 ||| b.setWidth 64 = 0 := h0
      simp only [h0, h0', if_false]; rfl

/-- Settles O21: the byte of index `CNT` is stored; the last one completes the header. -/
theorem decodeReadsKeyByte : Obligations.DecodeReadsKeyByte := by
  intro s b rest hp hi
  rw [exec_decode_keyByte hp hi]
  refine ⟨fun hc => ?_, fun hc => ?_, fun hc => ?_, fun hc => ?_⟩ <;>
    simp only [receiveKey, hc, payStart_eq] <;> rfl

/-- Settles O22: the transformed byte goes out, and `POS` says whether it was the last. -/
theorem applyTransfersOnePayloadByte : Obligations.ApplyTransfersOnePayloadByte := by
  intro s b rest hp hi
  rw [exec_apply_byte hp hi]
  rfl

/-! ### An operation in another phase -/

theorem exec_encode_elsewhere {s : State} (hp : s.phase ≠ .encHdr) : exec .encode s = .next s := by
  cases hs : s.phase <;> simp_all [exec, execEncode]

theorem exec_decode_elsewhere {s : State} (hp : ¬ headerPhase s.phase) : exec .decode s = .next s := by
  cases hs : s.phase <;> simp_all [exec, execDecode, headerPhase]

theorem exec_apply_elsewhere {s : State} (hp : s.phase ≠ .payload) : exec .apply s = .next s := by
  cases hs : s.phase <;> simp_all [exec, execApply]

theorem passB0_elsewhere {s : State} (b : Byte) (hp : s.phase ∉ [Phase.decB0, Phase.encHdr]) : passB0 b s = .next s := by
  cases hs : s.phase <;> simp_all [passB0]

theorem passB1_elsewhere {s : State} (b : Byte) (hp : s.phase ∉ [Phase.decB1, Phase.encHdr]) : passB1 b s = .next s := by
  cases hs : s.phase <;> simp_all [passB1]

/-- The rows on the first byte run as its pass (R89). -/
theorem exec_frameOpcode {i : Instr} (h : i.row.carrier = .b0) : ∃ b, ∀ s, exec i s = passB0 b s := by
  cases i with
  | text hi | binary hi => exact ⟨_, fun _ => rfl⟩
  | mask _ _ _ | unmask _ _ _ | encode | decode | apply => cases h
  | hdr7m _ _ | hdr7u _ _ | hdr16m _ | hdr16u _ | hdr64m _ | hdr64u _ => cases h

/-- The rows on the header word run as the pass of its second byte (R83 to R85). -/
theorem exec_headerRow {i : Instr} (h : i.row.carrier = .hdr) : ∃ b, ∀ s, exec i s = passB1 b s := by
  cases i with
  | hdr7m _ _ | hdr7u _ _ | hdr16m _ | hdr16u _ | hdr64m _ | hdr64u _ => exact ⟨_, fun _ => rfl⟩
  | mask _ _ _ | unmask _ _ _ | encode | decode | apply | text _ | binary _ => cases h

/-- Settles O29: each operation looks at the phase first, and a command at `BUSY`. -/
theorem operationsOutsideTheirPhasesChangeNothing : Obligations.OperationsOutsideTheirPhasesChangeNothing := by
  refine fun s => ⟨exec_encode_elsewhere, exec_decode_elsewhere, exec_apply_elsewhere, fun i hc hp => ?_,
    fun i hc hp => ?_, fun i hc hb => exec_command_busy hc hb⟩
  · obtain ⟨b, hb⟩ := exec_frameOpcode hc
    rw [hb, passB0_elsewhere b hp]
  · obtain ⟨b, hb⟩ := exec_headerRow hc
    rw [hb, passB1_elsewhere b hp]

/-! ### The phase graph -/

/-- The arrows of R163. -/
def phaseArrows : List (Phase × Phase) :=
  [(Phase.encHdr, Phase.payload), (.encHdr, .idle), (.decB0, .decB1), (.decB0, .idle),
    (.decB1, .decExt), (.decB1, .decKey), (.decB1, .payload), (.decB1, .idle),
    (.decExt, .decKey), (.decExt, .payload), (.decExt, .idle),
    (.decKey, .payload), (.decKey, .idle), (.payload, .idle)]

/-- The step that completes a header leads to the payload or to the end (R156). -/
theorem payStart_arrow {p : Phase} (hp : p ∈ [Phase.encHdr, Phase.decB1, Phase.decExt, Phase.decKey]) (s : State) :
    (p, (payStart s).phase) ∈ phaseArrows := by
  have harrows : ∀ p ∈ [Phase.encHdr, Phase.decB1, Phase.decExt, Phase.decKey],
      (p, Phase.idle) ∈ phaseArrows ∧ (p, Phase.payload) ∈ phaseArrows := by decide
  obtain ⟨hidle, hpayload⟩ := harrows p hp
  obtain ⟨-, e⟩ | ⟨-, e⟩ := payStart_cases s <;> rw [e]
  · exact hidle
  · exact hpayload

/-- The step that completes a length leads to the key, or completes the header (R161). -/
theorem keyStep_arrow {p : Phase} (hp : p ∈ [Phase.decB1, Phase.decExt]) (s : State) :
    (p, (keyStep s).phase) ∈ phaseArrows := by
  have harrows : ∀ p ∈ [Phase.decB1, Phase.decExt],
      (p, Phase.decKey) ∈ phaseArrows ∧ p ∈ [Phase.encHdr, Phase.decB1, Phase.decExt, Phase.decKey] := by decide
  obtain ⟨hkey, hcomplete⟩ := harrows p hp
  obtain ⟨-, e⟩ | ⟨-, e⟩ := keyStep_cases s <;> rw [e]
  · exact hkey
  · exact payStart_arrow hcomplete _

theorem SeqEffect.phase_arrow {s t : State} (e : SeqEffect s t) :
    t.phase = s.phase ∨ (s.phase, t.phase) ∈ phaseArrows := by
  cases e with
  | stay => exact .inl rfl
  | emit b hp =>
    obtain ⟨-, e⟩ | ⟨-, e⟩ := encAdvance_cases (outWrite b s) <;> rw [emitHeaderByte, e]
    · exact .inl rfl
    · exact .inr (payStart_arrow (by simp [hp]) _)
  | truncated hp _ =>
    have harrows : ∀ p ∈ [Phase.decB0, Phase.decB1, Phase.decExt, Phase.decKey], (p, Phase.idle) ∈ phaseArrows := by decide
    exact .inr (harrows _ hp)
  | endOfStream hp _ => exact .inr (by simp [hp, raise, phaseArrows])
  | firstByte _ b rest hp _ => exact .inr (by simp [hp, receiveB0_eq, phaseArrows])
  | secondByte _ b rest hp _ =>
    obtain ⟨-, e⟩ | ⟨-, e⟩ := receiveB1_cases b { s with inp := rest } <;> rw [e]
    · exact .inr (keyStep_arrow (by simp [hp]) _)
    · exact .inr (by simp [hp, phaseArrows])
  | lengthByte b rest hp _ =>
    obtain ⟨-, e⟩ | ⟨-, e⟩ := receiveExt_cases b { s with inp := rest } <;> rw [e]
    · exact .inl rfl
    · exact .inr (keyStep_arrow (by simp [hp]) _)
  | keyByte b rest t hp _ hk =>
    obtain ⟨-, rfl⟩ | ⟨-, rfl⟩ := receiveKey_cases hk
    · exact .inl rfl
    · exact .inr (payStart_arrow (by simp [hp]) _)
  | payloadByte b rest hp _ =>
    obtain ⟨-, e⟩ | ⟨-, e⟩ := payAdvance_cases (outWrite (applyByte b s.pos s.hdr.key) { s with inp := rest }) <;> rw [e]
    · exact .inr (by simp [hp, phaseArrows])
    · exact .inl rfl

/-- Settles O36: every effect of a sequencer instruction goes along an arrow or stays. -/
theorem phaseGraphIsComplete : Obligations.PhaseGraphIsComplete :=
  fun _ _ _ hc h hne => (exec_seqEffect hc h).phase_arrow.resolve_left hne

end Sys2Proof.Machine
end

section
/-! An accepted START (R152, R153, R182): the whole next state of either command. -/

namespace Sys2Proof.Machine

/-- `MASK_EN` as a START leaves it: 0 only where `P_UNMASKED_ENCODE` lets the command clear it (R23, R182). -/
theorem maskEnabled_storeMode (d o k m : Bool) (s : State) :
    maskEnabled (storeMode d o k m s) = !(s.cfg.unmaskedEncode && !m) := by
  cases hu : s.cfg.unmaskedEncode <;> simp [maskEnabled, hu]

/-- The key of a `MASK` (R150). -/
theorem maskKey_storeMode (d o k m : Bool) (s : State) :
    maskKey (storeMode d o k m s) =
      if s.cfg.unmaskedEncode && !m then Key.zero else if k then keyOfWord s.key else s.cfg.defaultKey := by
  rw [maskKey, maskEnabled_storeMode]
  cases s.cfg.unmaskedEncode && !m <;> rfl

theorem firstByte_opc (o : Bool) : firstByte (opc o) = if o then 0x82#8 else 0x81#8 := by
  cases o <;> rfl

/-- The header record of a `MASK` (R150, R152). -/
def maskHeader (o k m : Bool) (s : State) : Header :=
  { b0 := firstByte (opc o)
    b1 := byteB1 (maskEnabled (storeMode false o k m s)) (len7code s.len)
    len := s.len
    key := maskKey (storeMode false o k m s) }

theorem exec_mask_idle {s : State} (o k m : Bool) (hb : s.flags.busy = false) :
    exec (.mask o k m) s = .next
      { storeMode false o k m s with
        flags := { Flags.zero with busy := true }, phase := .encHdr, cnt := 0, pos := 0, hdr := maskHeader o k m s } := by
  simp only [exec, execMask, hb]
  rfl

theorem exec_unmask_idle {s : State} (o k m : Bool) (hb : s.flags.busy = false) :
    exec (.unmask o k m) s = .next
      { storeMode true o k m s with
        flags := { Flags.zero with busy := true }, phase := .decB0, cnt := 0, pos := 0, hdr := Header.zero } := by
  simp only [exec, execUnmask, hb]
  rfl

/-- Settles O14: the mode bits, the cleared state and the header record of `exec_mask_idle`, the record's bytes written out. -/
theorem maskStartsEncoding : Obligations.MaskStartsEncoding := by
  intro o k m s hb
  rw [exec_mask_idle o k m hb, maskHeader, firstByte_opc, maskEnabled_storeMode, maskKey_storeMode]
  cases s.cfg.unmaskedEncode && !m with
  | false => rfl
  | true =>
    rw [Bool.not_true, byteB1_unmasked]
    rfl

/-- Settles O15: the mode bits and the cleared state of `exec_unmask_idle`. -/
theorem unmaskStartsDecoding : Obligations.UnmaskStartsDecoding :=
  fun o k m _ hb => exec_unmask_idle o k m hb

end Sys2Proof.Machine
end

section
/-! Turns of the sequencer (R154, R171): an enabled step is the operation of the phase, one that is not enabled leaves the
operation as it is, and an operation that never is enabled waits for ever. -/

namespace Sys2Proof.Machine

/-! ### Enabled steps -/

theorem step_of_enabled {s : State} {src snk : Bool} (ht : currentTurn s = .seq src snk)
    (hen : (seqInstr s src snk).isSome = true) : step s = exec (phaseOp s.phase) (advance s) := by
  obtain ⟨_, -, hs⟩ | ⟨hi, -⟩ := step_seq ht
  · exact hs
  · simp [hi] at hen

theorem step_of_disabled {s : State} {src snk : Bool} (ht : currentTurn s = .seq src snk)
    (hdis : seqInstr s src snk = none) : step s = .next (advance s) := by
  obtain ⟨_, hi, -⟩ | ⟨-, hs⟩ := step_seq ht
  · simp [hi] at hdis
  · exact hs

theorem enabled_encHdr {s : State} (hp : s.phase = .encHdr) (src snk : Bool) :
    (seqInstr s src snk).isSome = snk := by
  obtain ⟨hin, hout, -⟩ := ports_encHdr hp src snk
  rw [seqInstr_isSome, hin, hout, Bool.false_or]

theorem enabled_headerPhase {s : State} (hp : headerPhase s.phase) (src snk : Bool) :
    (seqInstr s src snk).isSome = sourceReady s src := by
  obtain ⟨hin, hout⟩ := ports_headerPhase hp src snk
  rw [seqInstr_isSome, hin, hout, Bool.or_false]

theorem enabled_payload {s : State} (hp : s.phase = .payload) (src snk : Bool) :
    (seqInstr s src snk).isSome = (sourceReady s src && (s.inp.isEmpty || snk)) := by
  obtain ⟨hin, hout⟩ := ports_payload hp src snk
  rw [seqInstr_isSome, hin, hout]
  cases sourceReady s src <;> cases s.inp.isEmpty <;> cases snk <;> rfl

/-- Settles O46: in each phase the step is enabled under the stated levels, and then it is the operation of the phase. -/
theorem sequencerStepIsTheOperationOfItsPhase : Obligations.SequencerStepIsTheOperationOfItsPhase := by
  refine fun s src snk ht => ⟨fun hp hsnk => ?_, fun hp hsrc => ?_, fun hp hsrc hsnk => ?_⟩
  · have hs := step_of_enabled ht ((enabled_encHdr hp src snk).trans hsnk)
    rwa [hp] at hs
  · have hs := step_of_enabled ht ((enabled_headerPhase hp src snk).trans hsrc)
    rwa [phaseOp_headerPhase hp] at hs
  · have hready : (sourceReady s src && (s.inp.isEmpty || snk)) = true := by
      have hsource : sourceReady s src = true := hsrc
      simpa [hsource] using hsnk
    have hs := step_of_enabled ht ((enabled_payload hp src snk).trans hready)
    rwa [hp] at hs

/-! ### An operation that waits -/

/-- Raising `in_eos` wakes no operation that waits for the source, since only an empty one that is willing raises it. -/
theorem Waits.after_turn {s : State} {src snk src' snk' : Bool} (hw : Waits s src snk) (hw' : Waits s src' snk') :
    Waits { s with inEos := s.inEos || (src && s.inp.isEmpty) } src' snk' := by
  obtain ⟨hp, -⟩ | ⟨-, rfl, -⟩ | ⟨-, -, hi⟩ := hw
  · obtain ⟨-, hsnk⟩ | ⟨hp', -⟩ | ⟨hp', -⟩ := hw'
    · exact .inl ⟨hp, hsnk⟩
    · simp [hp] at hp'
    · simp [hp] at hp'
  · rwa [Bool.false_and, Bool.or_false]
  · rwa [List.isEmpty_eq_false_iff.mpr hi, Bool.and_false, Bool.or_false]

/-- A line of the host that neither resets the block nor connects a stream. -/
def harmless (l : HostLine) : Prop := l ≠ .reset ∧ l ≠ .feedBack ∧ ∀ bytes, l ≠ .input bytes

/-- A running operation that every turn of its schedule leaves waiting, under a host that only reads, writes and polls. -/
structure Stalled (s : State) : Prop where
  busy : s.flags.busy = true
  cycle : s.cycle ≠ []
  waits : ∀ src snk, .seq src snk ∈ s.turns ++ s.cycle → Waits s src snk
  host : ∀ l ∈ s.host, harmless l

/-- `t` is the block and the streams of `s`, with another schedule, host program, list of values read and source level. -/
def SameOperation (s t : State) : Prop :=
  t = { s with turns := t.turns, host := t.host, reads := t.reads, inEos := t.inEos }

theorem SameOperation.trans {s t u : State} (h1 : SameOperation s t) (h2 : SameOperation t u) : SameOperation s u := by
  unfold SameOperation at *
  rw [h2, h1]

/-- What the host's next turn is: nothing, a command, or the line itself (R93). -/
theorem hostMove_cases (s : State) :
    hostMove s = .rest ∨ (∃ i, hostMove s = .run i ∧ i.row.carrier = .ctrl) ∨
      ∃ l ∈ s.host, hostMove s = .line l := by
  unfold hostMove
  split
  · exact .inl rfl
  · split
    · split
      · exact .inr (.inl ⟨_, rfl, decodeCtrl_carrier ‹_›⟩)
      · exact .inr (.inr ⟨_, by simp_all, rfl⟩)
    · exact .inr (.inr ⟨_, by simp_all, rfl⟩)
  · exact .inr (.inr ⟨_, by simp_all, rfl⟩)

/-- A harmless line on a busy block is a read or is ignored; if it has to be run again it is the host's next line. -/
theorem hostLine_of_busy {l : HostLine} {s : State} (hl : harmless l) (hb : s.flags.busy = true) :
    ∃ hs rs, hostLine l s = .next { s with host := hs, reads := rs } ∧ ∀ l' ∈ hs, l' = l ∨ l' ∈ s.host := by
  obtain ⟨hreset, hfeed, hinput⟩ := hl
  cases l with
  | wr off v => exact ⟨s.host, s.reads, by simp [hostLine, regWrite, hb], fun _ h => .inr h⟩
  | rd off => exact ⟨s.host, _, rfl, fun _ h => .inr h⟩
  | wait =>
    obtain ⟨hbit, -⟩ := statusWord_bits s
    have hpoll : hostWait s = { hostRead regStatus s with host := .wait :: s.host } := if_pos (hbit.trans hb)
    exact ⟨.wait :: s.host, _, congrArg _ hpoll, fun _ h => List.mem_cons.mp h⟩
  | reset => exact absurd rfl hreset
  | input bytes => exact absurd rfl (hinput bytes)
  | feedBack => exact absurd rfl hfeed

/-- A turn of the host leaves a stalled operation as it is. -/
theorem Stalled.step_host {s : State} (h : Stalled s) (ht : currentTurn s = .host) :
    ∃ hs rs, step s = .next { s with turns := laterTurns s, host := hs, reads := rs } ∧ ∀ l ∈ hs, l ∈ s.host := by
  have hadv : advance s = { s with turns := laterTurns s, host := s.host.tail } := by simp only [advance, ht]
  have hfetch : fetch s = hostMove s := by simp only [fetch, ht]
  obtain hm | ⟨i, hm, hc⟩ | ⟨l, hl, hm⟩ := hostMove_cases s
  · refine ⟨s.host.tail, s.reads, ?_, fun _ => List.mem_of_mem_tail⟩
    simp only [step, hfetch, hm, hadv]
  · refine ⟨s.host.tail, s.reads, ?_, fun _ => List.mem_of_mem_tail⟩
    simp only [step, hfetch, hm, hadv]
    exact exec_command_busy hc h.busy
  · obtain ⟨hs, rs, he, hmem⟩ := hostLine_of_busy (s := advance s) (h.host l hl) (by rw [advance_flags]; exact h.busy)
    refine ⟨hs, rs, ?_, fun l' hl' => ?_⟩
    · simp only [step, hfetch, hm, he]
      rw [hadv]
    · obtain rfl | hl' := hmem l' hl'
      · exact hl
      · rw [hadv] at hl'
        exact List.mem_of_mem_tail hl'

/-- A turn of the sequencer leaves an operation that is idle or waits as it is. -/
theorem step_of_waits {s : State} {src snk : Bool} (ht : currentTurn s = .seq src snk)
    (h : s.phase = .idle ∨ Waits s src snk) :
    step s = .next { s with turns := laterTurns s, inEos := s.inEos || (src && s.inp.isEmpty) } := by
  have hdis : seqInstr s src snk = none := h.elim (fun hp => by simp only [seqInstr, hp]) seqInstr_of_waits
  rw [step_of_disabled ht hdis, advance_seq ht]

/-- A step of a stalled operation, of either agent, leaves it stalled. -/
theorem Stalled.step_next {s : State} (h : Stalled s) : ∃ t, step s = .next t ∧ SameOperation s t ∧ Stalled t := by
  have hlater (u : Turn) (hu : u ∈ laterTurns s ++ s.cycle) : u ∈ s.turns ++ s.cycle :=
    (List.mem_append.mp hu).elim laterTurns_subset (List.mem_append_right _)
  cases ht : currentTurn s with
  | host =>
    obtain ⟨hs, rs, he, hmem⟩ := h.step_host ht
    exact ⟨_, he, rfl, h.busy, h.cycle, fun src snk hu => h.waits src snk (hlater _ hu),
      fun l hl => h.host l (hmem l hl)⟩
  | seq src snk =>
    have hw := h.waits src snk (ht ▸ currentTurn_mem h.cycle)
    exact ⟨_, step_of_waits ht (.inr hw), rfl, h.busy, h.cycle,
      fun src' snk' hu => Waits.after_turn hw (h.waits src' snk' (hlater _ hu)), h.host⟩

/-- Settles O47: a disabled step only takes its turn; and every step of a stalled operation leaves it stalled, so that any
number of them does. -/
theorem disabledStepsChangeNothing : Obligations.DisabledStepsChangeNothing := by
  refine ⟨fun _ _ _ => step_of_waits, fun s hb hc hw hh n => ?_⟩
  have hs : Stalled s := ⟨hb, hc, hw, hh⟩
  clear hb hc hw hh
  induction n generalizing s with
  | zero => exact ⟨s, rfl, rfl⟩
  | succ n ih =>
    obtain ⟨t, he, hst, ht⟩ := hs.step_next
    obtain ⟨u, hu, htu⟩ := ih t ht
    exact ⟨u, by rw [runSteps, he]; exact hu, hst.trans htu⟩

end Sys2Proof.Machine
end

section
/-! The items of a running operation, one at a time (R53 to R55, R154 to R162): what each does, that it is the operation of the
phase, and that the invariant is kept whatever level the source shows at `in_eos`. -/

namespace Sys2Proof.Machine

/-- One item passes: a header byte out, a byte in, or the end of the input. From `s` it leads to the state named. -/
inductive Passes (s : State) : State → Prop
  | headerOut (b : Byte) : s.phase = .encHdr → hdrByte s.hdr s.cnt.toNat = some b → Passes s (emitHeaderByte b s)
  | truncated : headerPhase s.phase → s.inp = [] → Passes s (raise .truncatedHeader s)
  | endOfStream : s.phase = .payload → s.inp = [] → Passes s (raise .unexpectedEndOfStream s)
  | firstByte (b : Byte) (rest : List Byte) : s.phase = .decB0 → s.inp = b :: rest →
      Passes s (receiveB0 b { s with inp := rest })
  | secondByte (b : Byte) (rest : List Byte) : s.phase = .decB1 → s.inp = b :: rest →
      Passes s (receiveB1 b { s with inp := rest })
  | lengthByte (b : Byte) (rest : List Byte) : s.phase = .decExt → s.inp = b :: rest →
      Passes s (receiveExt b { s with inp := rest })
  | keyByte (b : Byte) (rest : List Byte) (t : State) : s.phase = .decKey → s.inp = b :: rest →
      receiveKey b { s with inp := rest } = .next t → Passes s t
  | payloadByte (b : Byte) (rest : List Byte) : s.phase = .payload → s.inp = b :: rest →
      Passes s (payAdvance (outWrite (applyByte b s.pos s.hdr.key) { s with inp := rest }))

/-- The operation of the phase lets the item pass. -/
theorem Passes.exec_eq {s t : State} (h : Passes s t) : exec (phaseOp s.phase) s = .next t := by
  cases h with
  | headerOut b hp hb => rw [congrArg phaseOp hp]; exact exec_encode_byte hp hb
  | truncated hp hi => rw [phaseOp_headerPhase hp]; exact exec_decode_eos hp hi
  | endOfStream hp hi => rw [congrArg phaseOp hp]; exact exec_apply_eos hp hi
  | firstByte b rest hp hi => rw [congrArg phaseOp hp]; exact exec_decode_firstByte hp hi
  | secondByte b rest hp hi => rw [congrArg phaseOp hp]; exact exec_decode_secondByte hp hi
  | lengthByte b rest hp hi => rw [congrArg phaseOp hp]; exact exec_decode_lengthByte hp hi
  | keyByte b rest t hp hi hk => rw [congrArg phaseOp hp]; exact (exec_decode_keyByte hp hi).trans hk
  | payloadByte b rest hp hi => rw [congrArg phaseOp hp]; exact exec_apply_byte hp hi

/-- Items pass in a running operation only. -/
theorem Passes.running {s t : State} (h : Passes s t) : s.phase ≠ .idle := by
  intro hp
  cases h with
  | truncated hp' _ => simp [headerPhase, hp] at hp'
  | headerOut _ hp' _ | endOfStream hp' _ | firstByte _ _ hp' _ | secondByte _ _ hp' _ | lengthByte _ _ hp' _
  | keyByte _ _ _ hp' _ _ | payloadByte _ _ hp' _ => simp [hp] at hp'

theorem phaseOp_sequencer (p : Phase) : (phaseOp p).row.carrier ≠ .ctrl := by
  cases p <;> decide

theorem Passes.effect {s t : State} (h : Passes s t) : SeqEffect s t :=
  exec_seqEffect (phaseOp_sequencer s.phase) h.exec_eq

/-! ### Whatever `in_eos` shows -/

/-- `s` with the source's level `in_eos` withdrawn. The operations do not see the level, so the invariant is kept without its
part `EosInv` too, which a START does not establish. -/
def withdrawEos (s : State) : State := { s with inEos := false }

theorem payStart_withdrawEos (s : State) : payStart (withdrawEos s) = withdrawEos (payStart s) := by
  rw [payStart, payStart, apply_ite withdrawEos]
  rfl

theorem keyStep_withdrawEos (s : State) : keyStep (withdrawEos s) = withdrawEos (keyStep s) := by
  rw [keyStep, keyStep, apply_ite withdrawEos, ← payStart_withdrawEos]
  rfl

theorem encAdvance_withdrawEos (s : State) : encAdvance (withdrawEos s) = withdrawEos (encAdvance s) := by
  rw [encAdvance, encAdvance, apply_ite withdrawEos, ← payStart_withdrawEos]
  rfl

theorem payAdvance_withdrawEos (s : State) : payAdvance (withdrawEos s) = withdrawEos (payAdvance s) := by
  rw [payAdvance, payAdvance, apply_ite withdrawEos]
  rfl

theorem receiveB0_withdrawEos (b : Byte) (s : State) : receiveB0 b (withdrawEos s) = withdrawEos (receiveB0 b s) := by
  rw [receiveB0_eq, receiveB0_eq]
  rfl

theorem receiveB1_withdrawEos (b : Byte) (s : State) : receiveB1 b (withdrawEos s) = withdrawEos (receiveB1 b s) := by
  rw [receiveB1, receiveB1, apply_ite withdrawEos, ← keyStep_withdrawEos]
  rfl

theorem receiveExt_withdrawEos (b : Byte) (s : State) : receiveExt b (withdrawEos s) = withdrawEos (receiveExt b s) := by
  rw [receiveExt, receiveExt, apply_ite withdrawEos, ← keyStep_withdrawEos]
  rfl

theorem receiveKey_withdrawEos {b : Byte} {s t : State} (h : receiveKey b s = .next t) :
    receiveKey b (withdrawEos s) = .next (withdrawEos t) := by
  obtain ⟨hc, rfl⟩ | ⟨hc, rfl⟩ := receiveKey_cases h
  · exact if_pos hc
  · rw [← payStart_withdrawEos]
    exact (if_neg (Nat.not_lt.mpr hc.ge)).trans (if_pos hc)

theorem Passes.withdrawn {s t : State} (h : Passes s t) : Passes (withdrawEos s) (withdrawEos t) := by
  cases h with
  | headerOut b hp hb => exact (encAdvance_withdrawEos (outWrite b s)) ▸ .headerOut b hp hb
  | truncated hp hi => exact .truncated hp hi
  | endOfStream hp hi => exact .endOfStream hp hi
  | firstByte b rest hp hi => exact receiveB0_withdrawEos b { s with inp := rest } ▸ .firstByte b rest hp hi
  | secondByte b rest hp hi => exact receiveB1_withdrawEos b { s with inp := rest } ▸ .secondByte b rest hp hi
  | lengthByte b rest hp hi => exact receiveExt_withdrawEos b { s with inp := rest } ▸ .lengthByte b rest hp hi
  | keyByte b rest t hp hi hk => exact .keyByte b rest _ hp hi (receiveKey_withdrawEos hk)
  | payloadByte b rest hp hi =>
    exact payAdvance_withdrawEos (outWrite (applyByte b s.pos s.hdr.key) { s with inp := rest }) ▸ .payloadByte b rest hp hi

/-- An item keeps the invariant of the block itself. -/
theorem Passes.keeps_inv {s t : State} (h : Passes s t) (hinv : Inv (withdrawEos s)) :
    Inv (withdrawEos t) :=
  exec_keeps_inv hinv h.withdrawn.exec_eq

/-! ### An item to pass -/

theorem receiveKey_next {s : State} (b : Byte) (hc : s.cnt.toNat < 4) : ∃ t, receiveKey b s = .next t := by
  unfold receiveKey
  split_ifs
  · exact ⟨_, rfl⟩
  · exact ⟨_, rfl⟩
  · omega

theorem hdrByte_exists {h : Header} {i : Nat} (hi : i < hdrlen h.b1) : ∃ b, hdrByte h i = some b :=
  Option.ne_none_iff_exists'.mp fun hnone => absurd ((hdrByte_eq_none_iff h i).mp hnone) (Nat.not_le.mpr hi)

/-- A running operation that meets the invariant always has an item to pass (R195). -/
theorem exists_passes {s : State} (hinv : Inv (withdrawEos s)) (hrun : s.phase ≠ .idle) : ∃ t, Passes s t := by
  have h := PhaseInv.of_inv hinv hrun
  obtain hp | hp | hp | hp := phase_cases s.phase
  · exact absurd hp hrun
  · simp only [PhaseInv, withdrawEos, hp] at h
    obtain ⟨hc, -⟩ := h
    obtain ⟨b, hb⟩ := hdrByte_exists hc
    exact ⟨_, .headerOut b hp hb⟩
  · cases hi : s.inp with
    | nil => exact ⟨_, .truncated hp hi⟩
    | cons b rest =>
      cases hs : s.phase with
      | idle | encHdr | payload => simp [headerPhase, hs] at hp
      | decB0 => exact ⟨_, .firstByte b rest hs hi⟩
      | decB1 => exact ⟨_, .secondByte b rest hs hi⟩
      | decExt => exact ⟨_, .lengthByte b rest hs hi⟩
      | decKey =>
        simp only [PhaseInv, withdrawEos, hs] at h
        obtain ⟨-, hc, -⟩ := h
        obtain ⟨t, ht⟩ := receiveKey_next (s := { s with inp := rest }) b hc
        exact ⟨t, .keyByte b rest t hs hi ht⟩
  · cases hi : s.inp with
    | nil => exact ⟨_, .endOfStream hp hi⟩
    | cons b rest => exact ⟨_, .payloadByte b rest hp hi⟩

end Sys2Proof.Machine
end

section
/-! How a running operation ends, as a function of the state it is in (R150, R151, R168): what is left of the header and of the
payload, read off in closed form. No item that passes changes it, and from a START it is the whole function. -/

namespace Sys2Proof.Machine

/-! ### What is left of the payload -/

/-- The end of an operation whose payload has got to `POS`: `payloadWhole` from there on (R162, R164, R197). -/
def payloadRest (s : State) : State :=
  let n := s.hdr.len.toNat - s.pos.toNat
  let p := s.inp.take n
  { s with
    flags := endFlags s.flags (s.pos.toNat + p.length) s.hdr.len.toNat
    phase := .idle, cnt := 0
    pos := s.pos + BitVec.ofNat 64 p.length
    inp := s.inp.drop n
    out := s.out ++ transform s.hdr.key s.pos p }

theorem payloadRest_start {s : State} (h : s.pos = 0) : payloadRest s = payloadWhole s.flags s.inp s := by
  simp [payloadRest, payloadWhole, h]

theorem payloadRest_done {s : State} (h : s.pos = s.hdr.len) (he : s.flags.eEos = false) : payloadRest s = finish s := by
  simp [payloadRest, h, endFlags, transform, finish, he]

theorem payloadRest_eos {s : State} (hi : s.inp = []) (h : s.pos.toNat < s.hdr.len.toNat) (hd : s.flags.done = false) :
    payloadRest s = raise .unexpectedEndOfStream s := by
  simp [payloadRest, hi, endFlags, transform, raise, fatalExit, setFlag, hd, h, h.ne]

theorem payloadRest_cons {s : State} {b : Byte} {rest : List Byte} (hi : s.inp = b :: rest)
    (h : s.pos.toNat < s.hdr.len.toNat) :
    payloadRest s =
      payloadRest { s with inp := rest, out := s.out ++ [applyByte b s.pos s.hdr.key], pos := s.pos + 1 } := by
  have hpos := pos_succ_toNat h
  obtain ⟨n, hn⟩ := Nat.exists_eq_add_of_lt h
  have hleft : s.hdr.len.toNat - s.pos.toNat = n + 1 := by omega
  have hleft' : s.hdr.len.toNat - (s.pos.toNat + 1) = n := by omega
  have hcount (m : Nat) : s.pos + BitVec.ofNat 64 (m + 1) = s.pos + 1 + BitVec.ofNat 64 m := by
    rw [Nat.add_comm, BitVec.ofNat_add, BitVec.add_assoc]
    rfl
  simp only [payloadRest, hi, hpos, hleft, hleft', transform, hcount, List.take_succ_cons, List.drop_succ_cons,
    List.length_cons, Nat.add_assoc, Nat.add_comm 1, List.append_assoc, List.cons_append, List.nil_append]

/-! ### What is left of a header -/

/-- The header bytes an encoder has still to emit from index `c` on (R120, R155). -/
def headerFrom (h : Header) (c : Nat) : List Byte := (List.range' c (hdrlen h.b1 - c)).filterMap (hdrByte h)

theorem headerFrom_end {h : Header} {c : Nat} (hc : hdrlen h.b1 ≤ c) : headerFrom h c = [] := by
  simp [headerFrom, Nat.sub_eq_zero_of_le hc]

theorem headerFrom_cons {h : Header} {c : Nat} {b : Byte} (hb : hdrByte h c = some b) :
    headerFrom h c = b :: headerFrom h (c + 1) := by
  have hc : c < hdrlen h.b1 := Nat.not_le.mp fun hle => by simp [(hdrByte_eq_none_iff h c).mpr hle] at hb
  obtain ⟨n, hn⟩ := Nat.exists_eq_add_of_lt hc
  have h1 : hdrlen h.b1 - c = n + 1 := by omega
  have h2 : hdrlen h.b1 - (c + 1) = n := by omega
  rw [headerFrom, headerFrom, h1, h2, List.range'_succ, List.filterMap_cons_some hb]

/-- Header bytes that read by index as `l` are the bytes of `l`. -/
theorem headerFrom_eq_drop {h : Header} {l : List Byte} (hl : ∀ i, hdrByte h i = l[i]?) (c : Nat) :
    headerFrom h c = l.drop c := by
  by_cases hc : c < l.length
  · have hb : hdrByte h c = some l[c] := (hl c).trans (List.getElem?_eq_getElem hc)
    rw [headerFrom_cons hb, List.drop_eq_getElem_cons hc, headerFrom_eq_drop hl (c + 1)]
  · have hnone : hdrByte h c = none := (hl c).trans (List.getElem?_eq_none (Nat.not_lt.mp hc))
    rw [headerFrom_end ((hdrByte_eq_none_iff h c).mp hnone), List.drop_eq_nil_of_le (Nat.not_lt.mp hc)]
termination_by l.length - c

/-- What `DECODE` leaves of a header whose length has `e` bytes to come (R128, R129, R131). -/
def readLength (h : Header) (e : Nat) (mal : Bool) (bytes : List Byte) : HeaderRead :=
  if bytes.length < e then ⟨{ h with len := bytes.foldl accumulate h.len }, mal, false, true, []⟩
  else decodeKey { h with len := (bytes.take e).foldl accumulate h.len } mal (bytes.drop e)

/-- What `DECODE` leaves of a header of which the first byte is read. -/
def readSecond (h : Header) (mal : Bool) (bytes : List Byte) : HeaderRead :=
  match bytes with
  | [] => ⟨h, mal, false, true, []⟩
  | b1 :: rest => decodeLength h.b0 b1 mal rest

/-- What `DECODE` leaves of a header of which nothing is read. -/
def readFirst (p : Params) (h : Header) (mal : Bool) (bytes : List Byte) : HeaderRead :=
  match bytes with
  | [] => ⟨h, mal, false, true, []⟩
  | b0 :: rest => readSecond { h with b0 := b0 } (mal || !markerOk p b0) rest

theorem readFirst_zero (p : Params) (bytes : List Byte) : readFirst p Header.zero false bytes = decodeHeader p bytes := by
  match bytes with
  | [] => rfl
  | [b0] => rfl
  | b0 :: b1 :: rest => rfl

theorem readLength_zero (h : Header) (mal : Bool) (bytes : List Byte) : readLength h 0 mal bytes = decodeKey h mal bytes := by
  simp [readLength]

theorem readLength_cons (h : Header) (e : Nat) (mal : Bool) (b : Byte) (rest : List Byte) :
    readLength h (e + 1) mal (b :: rest) = readLength { h with len := accumulate h.len b } e mal rest := by
  simp [readLength]

theorem decodeLength_extended_eq {b0 b1 : Byte} (mal : Bool) (bytes : List Byte) (h : 125 < (len7 b1).toNat) :
    decodeLength b0 b1 mal bytes = readLength ⟨b0, b1, 0, Key.zero⟩ (extlen b1) mal bytes := by
  have he : extlen b1 ≠ 0 := (extlen_pos h).ne'
  simp only [decodeLength, he, if_false]
  rfl

/-- What `DECODE` leaves of the header that is being read, from the phase, the record so far and the input. -/
def headerRest (s : State) : HeaderRead :=
  match s.phase with
  | .decB0 => readFirst s.cfg s.hdr s.flags.dMalformed s.inp
  | .decB1 => readSecond s.hdr s.flags.dMalformed s.inp
  | .decExt => readLength s.hdr (extlen s.hdr.b1 - s.cnt.toNat) s.flags.dMalformed s.inp
  | _ => decodeKey { s.hdr with key := Key.zero } s.flags.dMalformed ((keyBytes s.hdr.key).take s.cnt.toNat ++ s.inp)

/-- The end of an `UNMASK` whose header reads as `r`: the payload, or the fatal exit (R151, R200). -/
def afterHeader (r : HeaderRead) (s : State) : State :=
  let f := { s.flags with dMalformed := r.malformed, dUnmasked := r.unmasked }
  if r.truncated then
    { s with flags := { f with busy := false, eTrunc := true }, phase := .idle, cnt := 0, hdr := r.hdr, inp := r.rest }
  else payloadRest { s with flags := f, hdr := r.hdr, inp := r.rest, pos := 0 }

/-- The state in which the operation that runs in `s` ends, once all its items have passed. -/
def outcome (s : State) : State :=
  match s.phase with
  | .idle => s
  | .encHdr => payloadRest { s with out := s.out ++ headerFrom s.hdr s.cnt.toNat, pos := 0 }
  | .payload => payloadRest s
  | _ => afterHeader (headerRest s) s

section Phases

variable {s : State}

theorem outcome_idle (hp : s.phase = .idle) : outcome s = s := by simp only [outcome, hp]

theorem outcome_encHdr (hp : s.phase = .encHdr) :
    outcome s = payloadRest { s with out := s.out ++ headerFrom s.hdr s.cnt.toNat, pos := 0 } := by
  simp only [outcome, hp]

theorem outcome_payload (hp : s.phase = .payload) : outcome s = payloadRest s := by simp only [outcome, hp]

theorem outcome_headerPhase (hp : headerPhase s.phase) : outcome s = afterHeader (headerRest s) s := by
  cases hs : s.phase with
  | idle | encHdr | payload => simp [headerPhase, hs] at hp
  | decB0 | decB1 | decExt | decKey => simp only [outcome, hs]

theorem headerRest_decB0 (hp : s.phase = .decB0) : headerRest s = readFirst s.cfg s.hdr s.flags.dMalformed s.inp := by
  simp only [headerRest, hp]

theorem headerRest_decB1 (hp : s.phase = .decB1) : headerRest s = readSecond s.hdr s.flags.dMalformed s.inp := by
  simp only [headerRest, hp]

theorem headerRest_decExt (hp : s.phase = .decExt) :
    headerRest s = readLength s.hdr (extlen s.hdr.b1 - s.cnt.toNat) s.flags.dMalformed s.inp := by
  simp only [headerRest, hp]

theorem headerRest_decKey (hp : s.phase = .decKey) :
    headerRest s =
      decodeKey { s.hdr with key := Key.zero } s.flags.dMalformed
        ((keyBytes s.hdr.key).take s.cnt.toNat ++ s.inp) := by
  simp only [headerRest, hp]

end Phases

/-! ### Items do not change it -/

/-- What a header reads as decides its own fields; the operation's record and input so far, phase and count do not matter. -/
theorem afterHeader_update (r : HeaderRead) (s : State) (h : Header) (i : List Byte) (p : Phase) (c : BitVec 4) (d u : Bool) :
    afterHeader r
      { s with hdr := h, inp := i, phase := p, cnt := c, flags := { s.flags with dMalformed := d, dUnmasked := u } } =
      afterHeader r s := by
  unfold afterHeader
  split <;> rfl

/-- A header that has no unmasked frame to report leaves the flags as they are. -/
theorem afterHeader_complete {s : State} (h : Header) (rest : List Byte) (hu : s.flags.dUnmasked = false) :
    afterHeader ⟨h, s.flags.dMalformed, false, false, rest⟩ s = payloadRest { s with hdr := h, inp := rest, pos := 0 } := by
  have hf : { s.flags with dUnmasked := false } = s.flags := by rw [← hu]
  exact congrArg (fun f => payloadRest { s with flags := f, hdr := h, inp := rest, pos := 0 }) hf

/-- A header that breaks off where it is read to is the fatal exit of R196. -/
theorem afterHeader_truncated {s : State} (hi : s.inp = []) (hu : s.flags.dUnmasked = false) :
    afterHeader ⟨s.hdr, s.flags.dMalformed, false, true, []⟩ s = raise .truncatedHeader s := by
  simp [afterHeader, raise, fatalExit, setFlag, hi, hu]

theorem outcome_payStart {s : State} (he : s.flags.eEos = false) : outcome (payStart s) = payloadRest { s with pos := 0 } := by
  obtain ⟨h0, e⟩ | ⟨-, e⟩ := payStart_cases s <;> rw [e]
  · exact (payloadRest_done (s := { s with pos := 0 }) h0.symm he).symm
  · rfl

theorem outcome_keyStep {s : State} (he : s.flags.eEos = false) (hk : s.hdr.key = Key.zero) :
    outcome (keyStep s) = afterHeader (decodeKey s.hdr s.flags.dMalformed s.inp) s := by
  have hzero : { s.hdr with key := Key.zero } = s.hdr := by rw [← hk]
  obtain ⟨-, e⟩ | ⟨hm, e⟩ := keyStep_cases s <;> rw [e]
  · rw [outcome_headerPhase (by simp [headerPhase]), headerRest_decKey rfl]
    change afterHeader (decodeKey { s.hdr with key := Key.zero } s.flags.dMalformed s.inp) _ = _
    rw [hzero]
    exact afterHeader_update _ s s.hdr s.inp .decKey 0 s.flags.dMalformed s.flags.dUnmasked
  · rw [outcome_payStart (s := raise .unmaskedFrameEncountered s) he, decodeKey_unmasked hm]
    rfl

theorem outcome_emitHeaderByte {s : State} {b : Byte} (hp : s.phase = .encHdr) (hb : hdrByte s.hdr s.cnt.toNat = some b)
    (he : s.flags.eEos = false) : outcome (emitHeaderByte b s) = outcome s := by
  have hbound := hdrlen_bounds s.hdr.b1
  rw [outcome_encHdr hp, headerFrom_cons hb, emitHeaderByte, List.append_cons]
  obtain ⟨hc, e⟩ | ⟨hc, e⟩ := encAdvance_cases (outWrite b s) <;> rw [e] <;>
    simp only [outWrite_cnt, outWrite_hdr] at hc
  · have hcnt : (s.cnt + 1).toNat = s.cnt.toNat + 1 := cnt_succ_toNat (by omega)
    rw [outcome_encHdr (by exact hp), ← hcnt]
    rfl
  · rw [outcome_payStart (s := outWrite b s) he, headerFrom_end hc, List.append_nil]
    rfl

theorem outcome_receiveB0 {s : State} {b : Byte} {rest : List Byte} (hp : s.phase = .decB0) (hi : s.inp = b :: rest) :
    outcome (receiveB0 b { s with inp := rest }) = outcome s := by
  rw [outcome_headerPhase (s := s) (by simp [headerPhase, hp]), headerRest_decB0 hp, hi, receiveB0_eq,
    outcome_headerPhase (by simp [headerPhase]), headerRest_decB1 rfl]
  exact afterHeader_update _ s _ rest .decB1 s.cnt _ s.flags.dUnmasked

theorem outcome_receiveB1 {s : State} {b : Byte} {rest : List Byte} (hp : s.phase = .decB1) (hi : s.inp = b :: rest)
    (he : s.flags.eEos = false) (hk : s.hdr.key = Key.zero) :
    outcome (receiveB1 b { s with inp := rest }) = outcome s := by
  rw [outcome_headerPhase (s := s) (by simp [headerPhase, hp]), headerRest_decB1 hp, hi]
  change _ = afterHeader (decodeLength s.hdr.b0 b s.flags.dMalformed rest) s
  obtain ⟨h7, e⟩ | ⟨h7, e⟩ := receiveB1_cases b { s with inp := rest } <;> rw [e]
  · rw [outcome_keyStep (by exact he) (by exact hk), decodeLength_tier7 h7, ← hk]
    exact afterHeader_update _ s _ rest s.phase s.cnt s.flags.dMalformed s.flags.dUnmasked
  · rw [outcome_headerPhase (by simp [headerPhase]), headerRest_decExt rfl, decodeLength_extended_eq _ _ h7, ← hk]
    exact afterHeader_update _ s _ rest .decExt 0 s.flags.dMalformed s.flags.dUnmasked

theorem outcome_receiveExt {s : State} {b : Byte} {rest : List Byte} (hp : s.phase = .decExt) (hi : s.inp = b :: rest)
    (hc : s.cnt.toNat < extlen s.hdr.b1) (he : s.flags.eEos = false) (hk : s.hdr.key = Key.zero) :
    outcome (receiveExt b { s with inp := rest }) = outcome s := by
  have hbound := extlen_le s.hdr.b1
  obtain ⟨n, hn⟩ := Nat.exists_eq_add_of_lt hc
  have hleft : extlen s.hdr.b1 - s.cnt.toNat = n + 1 := by omega
  rw [outcome_headerPhase (s := s) (by simp [headerPhase, hp]), headerRest_decExt hp, hi, hleft, readLength_cons]
  obtain ⟨hmore, e⟩ | ⟨hlast, e⟩ := receiveExt_cases b { s with inp := rest } <;> rw [e]
  · have hmore : s.cnt.toNat + 1 < extlen s.hdr.b1 := hmore
    have hcnt : (s.cnt + 1).toNat = s.cnt.toNat + 1 := cnt_succ_toNat (by omega)
    have hleft' : extlen s.hdr.b1 - (s.cnt + 1).toNat = n := by omega
    rw [outcome_headerPhase (by simp [headerPhase, hp]), headerRest_decExt (by exact hp)]
    simp only [hleft']
    exact afterHeader_update _ s _ rest s.phase _ s.flags.dMalformed s.flags.dUnmasked
  · have hlast : extlen s.hdr.b1 ≤ s.cnt.toNat + 1 := hlast
    have hn0 : n = 0 := by omega
    rw [outcome_keyStep (by exact he) (by exact hk), hn0, readLength_zero]
    exact afterHeader_update _ s _ rest s.phase 0 s.flags.dMalformed s.flags.dUnmasked

/-- Storing byte `CNT` of the key appends it to the bytes that are read (R160). -/
theorem keyBytes_keySet_take (k : Key) {c : BitVec 4} (b : Byte) (hc : c.toNat < 4) :
    (keyBytes (keySet k (c.setWidth 2) b)).take (c.toNat + 1) = (keyBytes k).take c.toNat ++ [b] := by
  obtain rfl | rfl | rfl | rfl : c = 0 ∨ c = 1 ∨ c = 2 ∨ c = 3 := by bv_omega
  all_goals rfl

/-- Four key bytes and what follows them (R160). -/
theorem decodeKey_complete {h : Header} {mal : Bool} (hm : maskBit h.b1 = true) (k : Key) (rest : List Byte) :
    decodeKey h mal (keyBytes k ++ rest) = ⟨{ h with key := k }, mal, false, false, rest⟩ :=
  decodeKey_encoded hm k mal rest

theorem outcome_receiveKey {s t : State} {b : Byte} {rest : List Byte} (hp : s.phase = .decKey) (hi : s.inp = b :: rest)
    (hm : maskBit s.hdr.b1 = true) (he : s.flags.eEos = false) (hu : s.flags.dUnmasked = false)
    (hk : receiveKey b { s with inp := rest } = .next t) : outcome t = outcome s := by
  rw [outcome_headerPhase (s := s) (by simp [headerPhase, hp]), headerRest_decKey hp, hi, List.append_cons]
  obtain ⟨hmore, rfl⟩ | ⟨hlast, rfl⟩ := receiveKey_cases hk
  · have hmore : s.cnt.toNat + 1 < 4 := hmore
    have hcnt : (s.cnt + 1).toNat = s.cnt.toNat + 1 := cnt_succ_toNat (by omega)
    rw [outcome_headerPhase (by simp [headerPhase, storeKeyByte, hp]), headerRest_decKey (by exact hp),
      ← keyBytes_keySet_take s.hdr.key b (by omega), ← hcnt]
    exact afterHeader_update _ s _ rest s.phase (s.cnt + 1) s.flags.dMalformed s.flags.dUnmasked
  · have hlast : s.cnt.toNat + 1 = 4 := hlast
    rw [outcome_payStart (by exact he), ← keyBytes_keySet_take s.hdr.key b (by omega), hlast]
    change _ = afterHeader (decodeKey _ _ (keyBytes _ ++ rest)) s
    rw [decodeKey_complete (by exact hm), afterHeader_complete _ _ hu]
    rfl

theorem outcome_payAdvance {s : State} {b : Byte} {rest : List Byte} (hp : s.phase = .payload) (hi : s.inp = b :: rest)
    (hpos : s.pos.toNat < s.hdr.len.toNat) (he : s.flags.eEos = false) :
    outcome (payAdvance (outWrite (applyByte b s.pos s.hdr.key) { s with inp := rest })) = outcome s := by
  rw [outcome_payload hp, payloadRest_cons hi hpos]
  obtain ⟨hend, e⟩ | ⟨-, e⟩ := payAdvance_cases (outWrite (applyByte b s.pos s.hdr.key) { s with inp := rest }) <;> rw [e]
  · rw [outcome_idle rfl, payloadRest_done (by exact hend) (by exact he)]
    rfl
  · rw [outcome_payload (by exact hp)]
    rfl

/-- A key that the input breaks off: the bytes that are there, and zeros after them (R131, R32). -/
theorem decodeKey_short {h : Header} (mal : Bool) {c : BitVec 4} (hm : maskBit h.b1 = true) (hc : c.toNat < 4)
    (hz : ∀ b ∈ (keyBytes h.key).drop c.toNat, b = 0) :
    decodeKey { h with key := Key.zero } mal ((keyBytes h.key).take c.toNat) = ⟨h, mal, false, true, []⟩ := by
  obtain ⟨b0, b1, len, ⟨k0, k1, k2, k3⟩⟩ := h
  obtain rfl | rfl | rfl | rfl : c = 0 ∨ c = 1 ∨ c = 2 ∨ c = 3 := by bv_omega
  all_goals simp_all [decodeKey, keyBytes, Key.zero]

/-- At the end of the input every header phase reads a truncated header, with what was read so far (R131, R202). -/
theorem headerRest_eos {s : State} (hp : headerPhase s.phase) (h : PhaseInv s) (hi : s.inp = []) :
    headerRest s = ⟨s.hdr, s.flags.dMalformed, false, true, []⟩ := by
  cases hs : s.phase with
  | idle | encHdr | payload => simp [headerPhase, hs] at hp
  | decB0 => rw [headerRest_decB0 hs, hi]; rfl
  | decB1 => rw [headerRest_decB1 hs, hi]; rfl
  | decExt =>
    simp only [PhaseInv, hs] at h
    obtain ⟨-, hc, -⟩ := h
    rw [headerRest_decExt hs, hi]
    exact if_pos (Nat.sub_pos_of_lt hc)
  | decKey =>
    simp only [PhaseInv, hs] at h
    obtain ⟨-, hc, -, hm, hz⟩ := h
    rw [headerRest_decKey hs, hi, List.append_nil]
    exact decodeKey_short _ hm hc hz

/-- The simulation: whatever item passes, the operation ends as it would have ended (R168). -/
theorem Passes.outcome_eq {s t : State} (h : Passes s t) (hinv : Inv (withdrawEos s)) : outcome t = outcome s := by
  have hr := RunningInv.of_inv hinv h.running
  have hph := PhaseInv.of_inv hinv h.running
  have he : s.flags.eEos = false := hr.eEos
  cases h with
  | headerOut b hp hb => exact outcome_emitHeaderByte hp hb he
  | truncated hp hi =>
    have hread : headerRest s = ⟨s.hdr, s.flags.dMalformed, false, true, []⟩ :=
      headerRest_eos (s := withdrawEos s) hp hph hi
    rw [outcome_headerPhase hp, hread, afterHeader_truncated hi (hph.decoding hp).dUnmasked, outcome_idle rfl]
  | endOfStream hp hi =>
    rw [outcome_payload hp, payloadRest_eos hi (hph.posBelow hp) hr.done, outcome_idle rfl]
  | firstByte b rest hp hi => exact outcome_receiveB0 hp hi
  | secondByte b rest hp hi =>
    simp only [PhaseInv, withdrawEos, hp] at hph
    obtain ⟨-, -, -, -, hkey⟩ := hph
    exact outcome_receiveB1 hp hi he hkey
  | lengthByte b rest hp hi =>
    simp only [PhaseInv, withdrawEos, hp] at hph
    obtain ⟨-, hc, -, hkey⟩ := hph
    exact outcome_receiveExt hp hi hc he hkey
  | keyByte b rest t hp hi hk =>
    simp only [PhaseInv, withdrawEos, hp] at hph
    obtain ⟨hd, -, -, hm, -⟩ := hph
    exact outcome_receiveKey hp hi hm he hd.dUnmasked hk
  | payloadByte b rest hp hi => exact outcome_payAdvance hp hi (hph.posBelow hp) he

end Sys2Proof.Machine
end

section
/-! Runs of the sequencer and the whole functions (R150, R151, R168): a turn of the sequencer lets one item pass or none, so it
keeps how the operation ends, and from a START that is `maskWhole` or `unmaskWhole`. -/

namespace Sys2Proof.Machine

/-! ### One turn of the sequencer -/

/-- `s` under another schedule and with another level of its source. -/
def reschedule (ts : List Turn) (e : Bool) (s : State) : State := { s with turns := ts, inEos := e }

theorem outcome_reschedule (ts : List Turn) (e : Bool) (s : State) :
    outcome (reschedule ts e s) = reschedule ts e (outcome s) := by
  have hafter (r : HeaderRead) : afterHeader r (reschedule ts e s) = reschedule ts e (afterHeader r s) := by
    unfold afterHeader
    split <;> rfl
  obtain hp | hp | hp | hp := phase_cases s.phase
  · rw [outcome_idle hp, outcome_idle (by exact hp)]
  · rw [outcome_encHdr hp, outcome_encHdr (by exact hp)]
    rfl
  · rw [outcome_headerPhase hp, outcome_headerPhase (by exact hp), ← hafter]
    rfl
  · rw [outcome_payload hp, outcome_payload (by exact hp)]
    rfl

/-- `t` is a later state of the operation that runs in `s`, or of the block after it: it meets the invariant of the block and
ends as `s` does. -/
structure Continues (s t : State) : Prop where
  inv : Inv (withdrawEos t)
  ends : outcome t = reschedule t.turns t.inEos (outcome s)

theorem Continues.refl {s : State} (h : Inv (withdrawEos s)) : Continues s s :=
  ⟨h, outcome_reschedule s.turns s.inEos s⟩

theorem Continues.trans {s t u : State} (h1 : Continues s t) (h2 : Continues t u) : Continues s u :=
  ⟨h2.inv, by rw [h2.ends, h1.ends]; rfl⟩

/-- An operation that has ended is in the state it was to end in. -/
theorem Continues.eq_of_idle {s t : State} (h : Continues s t) (hp : t.phase = .idle) :
    t = reschedule t.turns t.inEos (outcome s) := by
  rw [← h.ends, outcome_idle hp]

theorem continues_advance {s : State} {src snk : Bool} (h : Inv (withdrawEos s)) (ht : currentTurn s = .seq src snk) :
    Continues s (advance s) := by
  rw [advance_seq ht]
  exact ⟨inv_of_same_progress h rfl rfl rfl rfl rfl (fun _ => rfl) (by simp [EosInv, withdrawEos]),
    outcome_reschedule _ _ s⟩

theorem Passes.sameSchedule {s t : State} (h : Passes s t) :
    t.turns = s.turns ∧ t.cycle = s.cycle ∧ t.inEos = s.inEos := by
  obtain ⟨-, -, -, -, -, hturns, hcycle, heos, -⟩ := h.effect.sameParameters
  exact ⟨hturns, hcycle, heos⟩

theorem Passes.continues {s t : State} (h : Passes s t) (hinv : Inv (withdrawEos s)) : Continues s t := by
  obtain ⟨hturns, -, heos⟩ := h.sameSchedule
  refine ⟨h.keeps_inv hinv, ?_⟩
  rw [hturns, heos, h.outcome_eq hinv, ← outcome_reschedule]
  rfl

/-- A turn of the sequencer lets an item pass, or its step is not enabled (R154). -/
theorem step_seq_cases {s : State} {src snk : Bool} (h : Inv (withdrawEos s)) (ht : currentTurn s = .seq src snk) :
    (seqInstr s src snk = none ∧ step s = .next (advance s)) ∨
    ∃ t, Passes (advance s) t ∧ step s = .next t := by
  obtain ⟨i, hi, hs⟩ | hdis := step_seq ht
  · have hrun : (advance s).phase ≠ .idle := fun hp => by
      rw [advance_phase] at hp
      simp [seqInstr, hp] at hi
    obtain ⟨t, hpass⟩ := exists_passes (continues_advance h ht).inv hrun
    refine .inr ⟨t, hpass, ?_⟩
    rw [hs, ← advance_phase s, hpass.exec_eq]
  · exact .inl hdis

/-- A turn of the sequencer goes on with the operation under the rest of the schedule. -/
theorem step_seq_continues {s : State} {src snk : Bool} (h : Inv (withdrawEos s)) (ht : currentTurn s = .seq src snk) :
    ∃ t, step s = .next t ∧ Continues s t ∧ t.turns = laterTurns s ∧ t.cycle = s.cycle := by
  have hadv := continues_advance h ht
  obtain ⟨-, hs⟩ | ⟨t, hpass, hs⟩ := step_seq_cases h ht
  · exact ⟨_, hs, hadv, advance_turns s, advance_cycle s⟩
  · obtain ⟨hturns, hcycle, -⟩ := hpass.sameSchedule
    exact ⟨t, hs, hadv.trans (hpass.continues hadv.inv), hturns.trans (advance_turns s), hcycle.trans (advance_cycle s)⟩

/-- A run over a finite schedule of the sequencer goes on with the operation and uses the schedule up. -/
theorem runSteps_continues {ts : List Turn} {s t : State} (h : Inv (withdrawEos s)) (hts : s.turns = ts)
    (hseq : ∀ u ∈ ts, seqTurn u = true) (hrun : runSteps ts.length s = .next t) : Continues s t ∧ t.turns = [] := by
  induction ts generalizing s with
  | nil =>
    cases hrun
    exact ⟨.refl h, hts⟩
  | cons u us ih =>
    have hu : seqTurn u = true := hseq u (List.mem_cons_self ..)
    cases u with
    | host => cases hu
    | seq src snk =>
      obtain ⟨v, hs, hv, hturns, -⟩ := step_seq_continues h (currentTurn_cons hts)
      simp only [List.length_cons, runSteps, hs] at hrun
      obtain ⟨ht, hnil⟩ := ih hv.inv (hturns.trans (laterTurns_cons hts)) (fun u hu => hseq u (List.mem_cons_of_mem _ hu)) hrun
      exact ⟨hv.trans ht, hnil⟩

/-! ### From a START -/

/-- An accepted START meets the invariant of the block, whatever the block held before it (R33). -/
theorem inv_start {i : Instr} {s s1 : State} (hc : i.row.carrier = .ctrl) (hb : s.flags.busy = false)
    (he : exec i s = .next s1) : Inv (withdrawEos s1) := by
  have hforget := startForgetsTheLastOperation (withdrawEos s) i Flags.zero Header.zero 0 0 .idle hc hb rfl
  have hwithdrawn : exec i (withdrawEos s) = .next (withdrawEos s1) := by
    obtain ⟨o, k, m, rfl | rfl⟩ := command_cases hc
    · rw [exec_mask_idle o k m hb] at he
      rw [exec_mask_idle o k m (by exact hb)]
      cases he
      rfl
    · rw [exec_unmask_idle o k m hb] at he
      rw [exec_unmask_idle o k m (by exact hb)]
      cases he
      rfl
  refine exec_keeps_inv ?_ (hforget.trans hwithdrawn)
  exact inv_of_idle rfl rfl rfl (by simp [Flags.zero]) (by simp [Flags.zero]) (by simp [Flags.zero]) (fun _ => rfl)
    (by simp [EosInv, withdrawEos])

/-- The header bytes of a `MASK` are those of `ENCODE` (R110, R120). -/
theorem headerFrom_maskHeader (o k m : Bool) (s : State) :
    headerFrom (maskHeader o k m s) 0 =
      encodeHeader s.len (opc o) (maskEnabled (storeMode false o k m s)) (maskKey (storeMode false o k m s)) :=
  headerFrom_eq_drop (hdrByte_encoded s.len (opc o) _ _) 0

theorem outcome_mask {o k m : Bool} {s s1 : State} (hb : s.flags.busy = false) (he : exec (.mask o k m) s = .next s1) :
    outcome s1 = maskWhole o k m s := by
  rw [exec_mask_idle o k m hb] at he
  cases he
  rw [outcome_encHdr rfl, payloadRest_start rfl]
  simp only [maskWhole, ← headerFrom_maskHeader]
  rfl

theorem outcome_unmask {o k m : Bool} {s s1 : State} (hb : s.flags.busy = false)
    (he : exec (.unmask o k m) s = .next s1) : outcome s1 = unmaskWhole o k m s := by
  rw [exec_unmask_idle o k m hb] at he
  cases he
  rw [outcome_headerPhase (by simp [headerPhase]), headerRest_decB0 rfl]
  change afterHeader (readFirst s.cfg Header.zero false s.inp) _ = _
  rw [readFirst_zero]
  simp only [afterHeader, unmaskWhole]
  split
  · rfl
  · rw [payloadRest_start rfl]
    rfl

/-- A command's run over a finite schedule of the sequencer, if it ends, ends as its outcome says. -/
theorem command_run_ends {i : Instr} {s s1 t : State} {ts : List Turn} (hc : i.row.carrier = .ctrl)
    (hb : s.flags.busy = false) (hseq : ∀ u ∈ ts, seqTurn u = true) (hts : s1.turns = ts) (he : exec i s = .next s1)
    (hrun : runSteps ts.length s1 = .next t) (hp : t.phase = .idle) : t = { outcome s1 with inEos := t.inEos, turns := [] } := by
  obtain ⟨hcont, hnil⟩ := runSteps_continues (inv_start hc hb he) hts hseq hrun
  have hend := hcont.eq_of_idle hp
  rwa [hnil] at hend

/-- Settles O56: a START meets the invariant, each turn keeps how the operation ends, and for a `MASK` that is `maskWhole`. -/
theorem maskRunsEndAsTheWholeFunction : Obligations.MaskRunsEndAsTheWholeFunction := by
  intro o k m s s1 t ts hb hseq hts he hrun hp
  have hts1 : s1.turns = ts := by
    rw [exec_mask_idle o k m hb] at he
    cases he
    exact hts
  rw [← outcome_mask hb he]
  exact command_run_ends rfl hb hseq hts1 he hrun hp

/-- Settles O57: as for O56, with `unmaskWhole`. -/
theorem unmaskRunsEndAsTheWholeFunction : Obligations.UnmaskRunsEndAsTheWholeFunction := by
  intro o k m s s1 t ts hb hseq hts he hrun hp
  have hts1 : s1.turns = ts := by
    rw [exec_unmask_idle o k m hb] at he
    cases he
    exact hts
  rw [← outcome_unmask hb he]
  exact command_run_ends rfl hb hseq hts1 he hrun hp

end Sys2Proof.Machine
end

section
/-! How long an operation takes (R168): each item but an early end of the input takes one header byte to emit or one byte of
the input, so items run out; and a turn with a willing source and sink lets one pass. -/

namespace Sys2Proof.Machine

/-! ### Items to come -/

/-- The header bytes an operation has to emit and the input bytes it may read. -/
def work (s : State) : Nat := (if s.phase = .encHdr then hdrlen s.hdr.b1 - s.cnt.toNat else 0) + s.inp.length

theorem work_encHdr {s : State} (hp : s.phase = .encHdr) : work s = hdrlen s.hdr.b1 - s.cnt.toNat + s.inp.length := by
  rw [work, if_pos hp]

theorem work_reading {s : State} (hp : s.phase ≠ .encHdr) : work s = s.inp.length := by
  rw [work, if_neg hp, Nat.zero_add]

theorem payStart_phase_ne_encHdr (s : State) : (payStart s).phase ≠ .encHdr := by
  obtain ⟨-, e⟩ | ⟨-, e⟩ := payStart_cases s <;> simp [e]

/-- Only a START leads to `ENC_HDR` (R163). -/
theorem SeqEffect.phase_ne_encHdr {s t : State} (e : SeqEffect s t) (hp : s.phase ≠ .encHdr) : t.phase ≠ .encHdr := by
  have harrows : ∀ a ∈ phaseArrows, a.2 ≠ .encHdr := by decide
  obtain h | h := e.phase_arrow
  · rwa [h]
  · exact harrows _ h

theorem work_emitHeaderByte {s : State} {b : Byte} (hp : s.phase = .encHdr) (hc : s.cnt.toNat < hdrlen s.hdr.b1) :
    work s = work (emitHeaderByte b s) + 1 := by
  have hbound := hdrlen_bounds s.hdr.b1
  rw [work_encHdr hp, emitHeaderByte]
  obtain ⟨hmore, e⟩ | ⟨hlast, e⟩ := encAdvance_cases (outWrite b s) <;> rw [e]
  · have hmore : s.cnt.toNat + 1 < hdrlen s.hdr.b1 := hmore
    have hcnt : (s.cnt + 1).toNat = s.cnt.toNat + 1 := cnt_succ_toNat (by omega)
    rw [work_encHdr (by exact hp)]
    simp only [outWrite_inp, outWrite_hdr, outWrite_cnt, hcnt]
    omega
  · have hlast : hdrlen s.hdr.b1 ≤ s.cnt.toNat + 1 := hlast
    rw [work_reading (payStart_phase_ne_encHdr _), payStart_inp, outWrite_inp]
    omega

/-- A byte of the input is one item less to come. -/
theorem Passes.work_reading {s t : State} (h : Passes s t) {b : Byte} (hp : s.phase ≠ .encHdr) (hi : s.inp = b :: t.inp) :
    work s = work t + 1 := by
  rw [Machine.work_reading hp, Machine.work_reading (h.effect.phase_ne_encHdr hp), hi, List.length_cons]

/-- An item is one less to come, but for the end of the input, which ends the operation with an error (R196, R197). -/
theorem Passes.work_eq {s t : State} (h : Passes s t) (hinv : Inv (withdrawEos s)) :
    work s = work t + 1 ∨ (t.phase = .idle ∧ t.flags.done = false) := by
  have hdone : s.flags.done = false := (RunningInv.of_inv hinv h.running).done
  have hread {b : Byte} := h.work_reading (b := b)
  cases h with
  | headerOut b hp hb =>
    exact .inl (work_emitHeaderByte hp (Nat.not_le.mp fun hle => by simp [(hdrByte_eq_none_iff _ _).mpr hle] at hb))
  | truncated _ _ => exact .inr ⟨rfl, hdone⟩
  | endOfStream _ _ => exact .inr ⟨rfl, hdone⟩
  | firstByte b rest hp hi => exact .inl (hread (by simp [hp]) (by rw [receiveB0_eq]; exact hi))
  | secondByte b rest hp hi =>
    exact .inl (hread (by simp [hp]) (hi.trans (by rw [(receiveB1_sameStreams b { s with inp := rest }).1])))
  | lengthByte b rest hp hi =>
    exact .inl (hread (by simp [hp]) (hi.trans (by rw [(receiveExt_sameStreams b { s with inp := rest }).1])))
  | keyByte b rest t hp hi hk =>
    exact .inl (hread (by simp [hp]) (hi.trans (by rw [(receiveKey_sameStreams hk).1])))
  | payloadByte b rest hp hi => exact .inl (hread (by simp [hp]) (by rw [payAdvance_inp]; exact hi))

/-- A bound on the items to come, the end of the input included; none when no operation runs. -/
def effort (s : State) : Nat := if s.phase = .idle then 0 else work s + 1

theorem effort_idle {s : State} (hp : s.phase = .idle) : effort s = 0 := if_pos hp

theorem effort_running {s : State} (hp : s.phase ≠ .idle) : effort s = work s + 1 := if_neg hp

theorem effort_le_work (s : State) : effort s ≤ work s + 1 := by
  unfold effort
  split <;> omega

theorem effort_le (s : State) : effort s ≤ s.inp.length + 15 := by
  have hbound := hdrlen_bounds s.hdr.b1
  have hle := effort_le_work s
  unfold work at hle
  split at hle <;> omega

theorem work_advance (s : State) : work (advance s) = work s := by simp [work]

theorem effort_advance (s : State) : effort (advance s) = effort s := by simp [effort, work_advance]

theorem Passes.effort_lt {s t : State} (h : Passes s t) (hinv : Inv (withdrawEos s)) : effort t < effort s := by
  rw [effort_running h.running]
  obtain hw | ⟨hp, -⟩ := h.work_eq hinv
  · have := effort_le_work t
    omega
  · rw [effort_idle hp]
    omega

/-! ### Turns that let an item pass -/

section Turn

variable {s t : State} {src snk : Bool} (h : Inv (withdrawEos s))

include h

theorem effort_step_le (ht : currentTurn s = .seq src snk) (hs : step s = .next t) : effort t ≤ effort s := by
  obtain ⟨-, hs'⟩ | ⟨t', hpass, hs'⟩ := step_seq_cases h ht <;> rw [hs'] at hs <;> cases hs
  · exact (effort_advance s).le
  · rw [← effort_advance s]
    exact (hpass.effort_lt (continues_advance h ht).inv).le

/-- A turn on which source and sink are willing lets an item of a running operation pass (R154). -/
theorem step_willing (ht : currentTurn s = .seq true true) (hp : s.phase ≠ .idle) (hs : step s = .next t) :
    Passes (advance s) t := by
  obtain ⟨hdis, -⟩ | ⟨t', hpass, hs'⟩ := step_seq_cases h ht
  · have hen : (seqInstr s true true).isSome = true := by
      obtain hp' | hp' | hp' | hp' := phase_cases s.phase
      · exact absurd hp' hp
      · exact enabled_encHdr hp' true true
      · exact enabled_headerPhase hp' true true
      · rw [enabled_payload hp', Bool.or_true]
        rfl
    simp [hdis] at hen
  · rw [hs'] at hs
    cases hs
    exact hpass

end Turn

/-! ### Source and sink always willing -/

theorem currentTurn_willing {s : State} (hw : AlwaysWilling s) (hp : s.phase ≠ .idle) : currentTurn s = .seq true true := by
  unfold currentTurn
  split
  · exact hw _ (by simp_all)
  · split
    · exact hw _ (by simp_all)
    · unfold unscheduledTurn
      split
      · exact absurd ‹_› hp
      · rfl

/-- A turn leaves a schedule with the turns it had. -/
theorem schedule_subset {s t : State} (hturns : t.turns = laterTurns s) (hcycle : t.cycle = s.cycle) {u : Turn}
    (hu : u ∈ t.turns ++ t.cycle) : u ∈ s.turns ++ s.cycle := by
  rw [hturns, hcycle] at hu
  exact (List.mem_append.mp hu).elim laterTurns_subset (List.mem_append_right _)

/-- From `s` the block runs for `n` steps and ends in `u`; if it ends well it takes an item in each of them. -/
structure RunsToEnd (s u : State) (n : Nat) : Prop where
  run : runSteps n s = .next u
  idle : u.phase = .idle
  continues : Continues s u
  willing : AlwaysWilling u
  busyBefore : ∀ j < n, ∃ v, runSteps j s = .next v ∧ v.flags.busy = true
  count : u.flags.done = true → work s = work u + n

theorem runSteps_succ {s t : State} (n : Nat) (h : step s = .next t) : runSteps (n + 1) s = runSteps n t := by
  rw [runSteps, h]

theorem RunsToEnd.cons {s t u : State} {n : Nat} (h : RunsToEnd t u n) (hs : step s = .next t) (hcont : Continues s t)
    (hbusy : s.flags.busy = true) (hwork : work s = work t + 1 ∨ (t.phase = .idle ∧ t.flags.done = false)) :
    RunsToEnd s u (n + 1) where
  run := (runSteps_succ n hs).trans h.run
  idle := h.idle
  continues := hcont.trans h.continues
  willing := h.willing
  busyBefore j hj := by
    cases j with
    | zero => exact ⟨s, rfl, hbusy⟩
    | succ j => rw [runSteps_succ j hs]; exact h.busyBefore j (by omega)
  count hdone := by
    obtain hw | ⟨hp, hd⟩ := hwork
    · have := h.count hdone
      omega
    · have hu : u.flags = t.flags := by
        rw [h.continues.eq_of_idle h.idle, outcome_idle hp]
        rfl
      rw [hu, hd] at hdone
      cases hdone

/-- With source and sink always willing an operation runs to its end (R171). -/
theorem willing_runsToEnd {s : State} (h : Inv (withdrawEos s)) (hw : AlwaysWilling s) : ∃ u n, RunsToEnd s u n := by
  by_cases hp : s.phase = .idle
  · exact ⟨s, 0, rfl, hp, .refl h, hw, by simp, fun _ => rfl⟩
  · have ht := currentTurn_willing hw hp
    obtain ⟨t, hs, hcont, hturns, hcycle⟩ := step_seq_continues h ht
    have hpass := step_willing h ht hp hs
    have hadv := (continues_advance h ht).inv
    have hlt : effort t < effort s := by
      rw [← effort_advance s]
      exact hpass.effort_lt hadv
    obtain ⟨u, n, hrun⟩ := willing_runsToEnd hcont.inv (fun u hu => hw u (schedule_subset hturns hcycle hu))
    exact ⟨u, n + 1, hrun.cons hs hcont (RunningInv.of_inv h hp).busy (work_advance s ▸ hpass.work_eq hadv)⟩
termination_by effort s

/-! ### Commands that end well -/

/-- A command that is to end well takes a step per item, and `n` of them are what its end leaves over. -/
theorem command_runsToEnd {i : Instr} {s s1 : State} {n : Nat} (hc : i.row.carrier = .ctrl) (hb : s.flags.busy = false)
    (he : exec i s = .next s1) (hw : AlwaysWilling s1) (hdone : (outcome s1).flags.done = true)
    (hwork : work s1 = (outcome s1).inp.length + n) :
    ∃ u, RunsToEnd s1 u n ∧ u = reschedule u.turns u.inEos (outcome s1) := by
  obtain ⟨u, n', hrun⟩ := willing_runsToEnd (inv_start hc hb he) hw
  have hu := hrun.continues.eq_of_idle hrun.idle
  have hcount := hrun.count (by rw [hu]; exact hdone)
  have hinp : u.inp = (outcome s1).inp := by rw [hu]; rfl
  rw [hwork, work_reading (by simp [hrun.idle]), hinp] at hcount
  obtain rfl : n' = n := by omega
  exact ⟨u, hrun, hu⟩

theorem maskWhole_done {o k m : Bool} {s : State} (hlen : s.len.toNat ≤ s.inp.length) :
    (maskWhole o k m s).flags.done = true := by
  simp [maskWhole, payloadWhole, endFlags, hlen]

/-- A `MASK` with all of its payload at hand takes a step per header byte and payload byte (R168). -/
theorem mask_runsToEnd {o k m : Bool} {s s1 : State} (hb : s.flags.busy = false) (hw : AlwaysWilling s)
    (hlen : s.len.toNat ≤ s.inp.length) (he : exec (.mask o k m) s = .next s1) :
    ∃ u, RunsToEnd s1 u (hdrlen s1.hdr.b1 + s.len.toNat) ∧ u = reschedule u.turns u.inEos (maskWhole o k m s) := by
  have hs1 := he.symm.trans (exec_mask_idle o k m hb)
  injection hs1 with hs1
  have hout := outcome_mask hb he
  have hwork : work s1 = hdrlen s1.hdr.b1 + s.inp.length := by rw [hs1]; rfl
  have hinp : (outcome s1).inp = s.inp.drop s.len.toNat := by rw [hout]; rfl
  rw [← hout]
  refine command_runsToEnd rfl hb he (hs1 ▸ hw) (hout ▸ maskWhole_done hlen) ?_
  rw [hwork, hinp, List.length_drop]
  omega

theorem unmaskWhole_complete {o k m : Bool} {s : State} (h : (decodeHeader s.cfg s.inp).truncated = false) :
    unmaskWhole o k m s =
      payloadWhole
        { Flags.zero with
          dMalformed := (decodeHeader s.cfg s.inp).malformed, dUnmasked := (decodeHeader s.cfg s.inp).unmasked }
        (decodeHeader s.cfg s.inp).rest { storeMode true o k m s with hdr := (decodeHeader s.cfg s.inp).hdr } := by
  simp [unmaskWhole, h]

theorem unmaskWhole_done {o k m : Bool} {s : State} (htrunc : (decodeHeader s.cfg s.inp).truncated = false)
    (hlen : (decodeHeader s.cfg s.inp).hdr.len.toNat ≤ (decodeHeader s.cfg s.inp).rest.length) :
    (unmaskWhole o k m s).flags.done = true := by
  rw [unmaskWhole_complete htrunc]
  simp [payloadWhole, endFlags, hlen]

/-- An `UNMASK` of a complete frame takes a step per header byte and payload byte (R168). -/
theorem unmask_runsToEnd {o k m : Bool} {s s1 : State} (hb : s.flags.busy = false) (hw : AlwaysWilling s)
    (htrunc : (decodeHeader s.cfg s.inp).truncated = false)
    (hlen : (decodeHeader s.cfg s.inp).hdr.len.toNat ≤ (decodeHeader s.cfg s.inp).rest.length)
    (he : exec (.unmask o k m) s = .next s1) :
    ∃ u, RunsToEnd s1 u
        (hdrlen (decodeHeader s.cfg s.inp).hdr.b1 + (decodeHeader s.cfg s.inp).hdr.len.toNat) ∧
      u = reschedule u.turns u.inEos (unmaskWhole o k m s) := by
  have hs1 := he.symm.trans (exec_unmask_idle o k m hb)
  injection hs1 with hs1
  have hout := (outcome_unmask hb he).trans (unmaskWhole_complete htrunc)
  have hwork : work s1 = s.inp.length := by rw [hs1]; exact work_reading (by simp)
  have hinp : (outcome s1).inp = (decodeHeader s.cfg s.inp).rest.drop (decodeHeader s.cfg s.inp).hdr.len.toNat := by
    rw [hout]
    rfl
  obtain ⟨b0, b1, rest, -, hhdr, hrest, -, hb1⟩ := (decodeConsumesExactlyTheHeader s.cfg s.inp).1 htrunc
  rw [← outcome_unmask hb he]
  refine command_runsToEnd rfl hb he (hs1 ▸ hw) (outcome_unmask hb he ▸ unmaskWhole_done htrunc hlen) ?_
  rw [hrest, List.length_drop] at hlen
  rw [hwork, hinp, hrest, List.length_drop, List.length_drop, hb1]
  omega

/-- An operation that is to end well is `DONE` at the end of its run. -/
theorem RunsToEnd.done {s u e : State} {n : Nat} (h : RunsToEnd s u n) (hu : u = reschedule u.turns u.inEos e)
    (hdone : e.flags.done = true) : ∃ t, runSteps n s = .next t ∧ t.flags.done = true :=
  ⟨u, h.run, by rw [hu]; exact hdone⟩

/-- Settles O58: a run that ends well takes one step per item, and its items are those of the header and the payload. -/
theorem successfulOperationStepCount : Obligations.SuccessfulOperationStepCount := by
  refine ⟨fun o k m s s1 hb hw hlen he => ?_, fun o k m s s1 hb hw htrunc hlen he => ?_⟩
  · obtain ⟨u, hrun, hu⟩ := mask_runsToEnd hb hw hlen he
    exact ⟨hrun.done hu (maskWhole_done hlen), hrun.busyBefore⟩
  · obtain ⟨u, hrun, hu⟩ := unmask_runsToEnd hb hw htrunc hlen he
    exact ⟨hrun.done hu (unmaskWhole_done htrunc hlen), hrun.busyBefore⟩

end Sys2Proof.Machine
end

section
/-! The round trip on the machine (R169): the frame a `MASK` leaves in the sink, fed back, is one `DECODE` reads as what was
encoded, and the transform undoes itself. -/

namespace Sys2Proof.Machine

@[simp] theorem transform_length (k : Key) (p : DWord) (bytes : List Byte) : (transform k p bytes).length = bytes.length := by
  induction bytes generalizing p with
  | nil => rfl
  | cons b rest ih => rw [transform, List.length_cons, ih, List.length_cons]

/-- What `DECODE` makes of the frame a `MASK` of the whole input leaves in an empty sink (R135, R169). -/
theorem decodeHeader_maskWhole (p : Params) (o k m : Bool) {s : State} (hout : s.out = [])
    (hlen : s.len.toNat = s.inp.length) :
    decodeHeader p (maskWhole o k m s).out =
      { hdr := maskHeader o k m s, malformed := !p.expectedB0.contains (firstByte (opc o))
        unmasked := s.cfg.unmaskedEncode && !m, truncated := false
        rest := transform (maskHeader o k m s).key 0 s.inp } := by
  have hframe : (maskWhole o k m s).out =
      encodeHeader s.len (opc o) (maskEnabled (storeMode false o k m s)) (maskHeader o k m s).key ++
        transform (maskHeader o k m s).key 0 s.inp := by
    simp [maskWhole, payloadWhole, maskHeader, hout, hlen]
  rw [hframe, decodeHeaderInvertsEncodeHeader]
  have hkey : (if maskEnabled (storeMode false o k m s) then (maskHeader o k m s).key else Key.zero) =
      (maskHeader o k m s).key := by
    split
    · rfl
    · exact (maskKey_unmasked (Bool.eq_false_iff.mpr ‹_›)).symm
  have hunmasked : (!maskEnabled (storeMode false o k m s)) = (s.cfg.unmaskedEncode && !m) := by
    rw [maskEnabled_storeMode, Bool.not_not]
  rw [hkey, hunmasked]
  rfl

/-- The first byte an encoder emits is one of the two a receiver expects (R111, R125). -/
theorem firstByte_expected {p : Params} (o : Bool) (h1 : 0x81#8 ∈ p.expectedB0) (h2 : 0x82#8 ∈ p.expectedB0) :
    p.expectedB0.contains (firstByte (opc o)) = true := by
  rw [firstByte_opc]
  cases o
  · exact List.contains_iff_mem.mpr h1
  · exact List.contains_iff_mem.mpr h2

/-- A `MASK` of the whole input ends well and leaves none of it (R150). -/
theorem maskWhole_all (o k m : Bool) {s : State} (hlen : s.len.toNat = s.inp.length) :
    (maskWhole o k m s).inp = [] ∧ (maskWhole o k m s).flags = { Flags.zero with done := true } := by
  simp [maskWhole, payloadWhole, endFlags, hlen, Flags.zero]

/-- An `UNMASK` of a frame and nothing after it ends well and leaves none of it (R151). -/
theorem unmaskWhole_all (o k m : Bool) {s : State} (htrunc : (decodeHeader s.cfg s.inp).truncated = false)
    (hlen : (decodeHeader s.cfg s.inp).hdr.len.toNat = (decodeHeader s.cfg s.inp).rest.length) :
    unmaskWhole o k m s =
      { storeMode true o k m s with
        flags :=
          { Flags.zero with
            done := true, dMalformed := (decodeHeader s.cfg s.inp).malformed
            dUnmasked := (decodeHeader s.cfg s.inp).unmasked }
        phase := .idle, cnt := 0, pos := (decodeHeader s.cfg s.inp).hdr.len, hdr := (decodeHeader s.cfg s.inp).hdr, inp := []
        out := s.out ++ transform (decodeHeader s.cfg s.inp).hdr.key 0 (decodeHeader s.cfg s.inp).rest } := by
  rw [unmaskWhole_complete htrunc]
  have hpos : BitVec.ofNat 64 (decodeHeader s.cfg s.inp).rest.length = (decodeHeader s.cfg s.inp).hdr.len := by
    rw [← hlen, BitVec.ofNat_toNat, BitVec.setWidth_eq]
  simp [payloadWhole, endFlags, hlen, hpos, Flags.zero]

theorem RunsToEnd.eq_of_run {s t u : State} {n : Nat} (h : RunsToEnd s u n) (hrun : runSteps n s = .next t) : t = u := by
  rw [h.run] at hrun
  cases hrun
  rfl

/-- What the sink of an operation has received as the input of the next one, with a fresh sink (log 15, log 26). -/
def fedBack (t : State) : State := { t with inp := t.out, out := [], inEos := false }

/-- Settles O59: the `MASK` ends as `maskWhole`, `DECODE` reads its frame back, the `UNMASK` of it ends as `unmaskWhole`, and
the transform undoes itself. -/
theorem unmaskOfMaskGivesThePayload : Obligations.UnmaskOfMaskGivesThePayload := by
  intro o k m o' k' m' s s1 t u1 u n1 n2 hb hw hout hlen h81 h82 he1 hrun1 hn1 he2 hrun2 hn2
  subst hn1 hn2
  have hs1 : s1.hdr = maskHeader o k m s := by
    have hs1 := exec_mask_idle o k m hb
    rw [he1] at hs1
    cases hs1
    rfl
  obtain ⟨t', ht, htend⟩ := mask_runsToEnd hb hw hlen.le he1
  obtain rfl := ht.eq_of_run hrun1
  obtain ⟨htinp, htflags⟩ := maskWhole_all o k m hlen
  have hinp : t.inp = [] := by rw [htend]; exact htinp
  have hflags : t.flags = { Flags.zero with done := true } := by rw [htend]; exact htflags
  have hframe : decodeHeader (fedBack t).cfg (fedBack t).inp =
      { hdr := maskHeader o k m s, malformed := false, unmasked := s.cfg.unmaskedEncode && !m, truncated := false
        rest := transform (maskHeader o k m s).key 0 s.inp } := by
    have hread := decodeHeader_maskWhole s.cfg o k m hout hlen
    rw [firstByte_expected o h81 h82] at hread
    rw [htend]
    exact hread
  have htrunc : (decodeHeader (fedBack t).cfg (fedBack t).inp).truncated = false := by rw [hframe]
  have hrest : (decodeHeader (fedBack t).cfg (fedBack t).inp).hdr.len.toNat =
      (decodeHeader (fedBack t).cfg (fedBack t).inp).rest.length := by
    rw [hframe, transform_length]
    exact hlen
  obtain ⟨u', hu, huend⟩ := unmask_runsToEnd (s := fedBack t) (by rw [fedBack, hflags]; rfl) ht.willing htrunc hrest.le he2
  rw [unmaskWhole_all o' k' m' htrunc hrest, hframe] at huend
  rw [hframe] at hu
  rw [hs1] at hrun2
  obtain rfl := hu.eq_of_run hrun2
  refine ⟨by simp [hinp, hflags, Flags.zero], ?_⟩
  rw [huend, hs1]
  simp [reschedule, fedBack, maskHeader, Flags.zero]

end Sys2Proof.Machine
end

section
/-! Termination (R171, R234): a run to an end is bounded by the items to come, of which every round of the schedule lets one
pass when source and sink are willing together in it. -/

namespace Sys2Proof.Machine

/-- The flags of an operation that is over: `BUSY` is 0 and one of the three outcomes stands (R164, R196, R197). -/
def Ended (f : Flags) : Prop := f.busy = false ∧ (f.done = true ∨ f.eTrunc = true ∨ f.eEos = true)

theorem payloadRest_ended {s : State} (h : s.pos.toNat ≤ s.hdr.len.toNat) : Ended (payloadRest s).flags := by
  have hle : s.pos.toNat + (s.inp.take (s.hdr.len.toNat - s.pos.toNat)).length ≤ s.hdr.len.toNat := by
    rw [List.length_take]
    omega
  refine ⟨rfl, ?_⟩
  obtain heq | hlt := Nat.eq_or_lt_of_le hle
  · exact .inl (decide_eq_true heq)
  · exact .inr (.inr (decide_eq_true hlt))

theorem afterHeader_ended (r : HeaderRead) (s : State) : Ended (afterHeader r s).flags := by
  unfold afterHeader
  split
  · exact ⟨rfl, .inr (.inl rfl)⟩
  · exact payloadRest_ended (Nat.zero_le _)

theorem outcome_ended {s : State} (h : Inv (withdrawEos s)) (hp : s.phase ≠ .idle) : Ended (outcome s).flags := by
  obtain hp' | hp' | hp' | hp' := phase_cases s.phase
  · exact absurd hp' hp
  · rw [outcome_encHdr hp']
    exact payloadRest_ended (Nat.zero_le _)
  · rw [outcome_headerPhase hp']
    exact afterHeader_ended _ s
  · rw [outcome_payload hp']
    exact payloadRest_ended (PhaseInv.of_inv h hp |>.posBelow hp').le

/-- From `s` the operation is over within `n` steps. -/
def EndsWithin (n : Nat) (s : State) : Prop := ∃ m t, m ≤ n ∧ runSteps m s = .next t ∧ Ended t.flags

theorem EndsWithin.mono {m n : Nat} {s : State} (h : EndsWithin m s) (hle : m ≤ n) : EndsWithin n s := by
  obtain ⟨j, t, hj, hrun, hend⟩ := h
  exact ⟨j, t, hj.trans hle, hrun, hend⟩

/-- An operation that runs under a schedule of the sequencer that meets the liveness assumptions (R234). -/
structure Live (s : State) : Prop where
  inv : Inv (withdrawEos s)
  running : s.phase ≠ .idle
  fair : EventuallyWilling s

theorem Live.currentTurn_seq {s : State} (h : Live s) : ∃ src snk, currentTurn s = .seq src snk := by
  obtain ⟨hseq, -⟩ := h.fair
  have hturn : seqTurn (currentTurn s) = true := by
    unfold currentTurn
    split
    · exact hseq _ (by simp_all)
    · split
      · exact hseq _ (by simp_all)
      · unfold unscheduledTurn
        split
        · exact absurd ‹_› h.running
        · rfl
  cases ht : currentTurn s with
  | host => simp [ht, seqTurn] at hturn
  | seq src snk => exact ⟨src, snk, rfl⟩

/-- At the end of `turns` a round of the cycle begins, which has a willing turn; without a schedule every turn is one. -/
theorem Live.round_begins {s : State} (h : Live s) (hts : s.turns = []) :
    .seq true true ∈ currentTurn s :: laterTurns s ∧ (laterTurns s).length + 1 = max 1 s.cycle.length := by
  obtain ⟨-, hwilling⟩ := h.fair
  cases hc : s.cycle with
  | nil =>
    have ht : currentTurn s = .seq true true := currentTurn_willing (by simp [AlwaysWilling, hts, hc]) h.running
    simp [ht, laterTurns, hts, hc]
  | cons c cs =>
    rw [hc] at hwilling
    have ht : currentTurn s = c := by simp only [currentTurn, hts, hc]
    have hl : laterTurns s = cs := by simp only [laterTurns, hts, hc, List.tail_cons]
    rw [ht, hl]
    exact ⟨hwilling.resolve_left (List.cons_ne_nil c cs), by simp⟩

/-- A step of a live operation ends it, or leaves it live under the later turns. -/
theorem Live.endsWithin_of_step {s : State} {src snk : Bool} (h : Live s) (ht : currentTurn s = .seq src snk) {n : Nat}
    (hnext : ∀ t, step s = .next t → Live t → t.turns = laterTurns s → t.cycle = s.cycle → EndsWithin n t) :
    EndsWithin (n + 1) s := by
  obtain ⟨t, hs, hcont, hturns, hcycle⟩ := step_seq_continues h.inv ht
  by_cases hp : t.phase = .idle
  · refine ⟨1, t, by omega, by rw [runSteps_succ 0 hs]; rfl, ?_⟩
    rw [hcont.eq_of_idle hp]
    exact outcome_ended h.inv h.running
  · obtain ⟨hseq, hwilling⟩ := h.fair
    have hlive : Live t := ⟨hcont.inv, hp, fun u hu => hseq u (schedule_subset hturns hcycle hu), hcycle ▸ hwilling⟩
    obtain ⟨m, u, hm, hrun, hend⟩ := hnext t hs hlive hturns hcycle
    exact ⟨m + 1, u, by omega, (runSteps_succ m hs).trans hrun, hend⟩

/-- If operations with at most `f` items to come end in time, so does one with an item more that has a willing turn among
its current turn and the later ones, `us`. -/
theorem Live.endsWithin_of_willing {f : Nat} {c : List Turn}
    (ih : ∀ t, Live t → t.cycle = c → effort t ≤ f → EndsWithin (t.turns.length + f * max 1 c.length) t)
    (us : List Turn) {s : State} (h : Live s) (hc : s.cycle = c) (hus : laterTurns s = us)
    (hw : .seq true true ∈ currentTurn s :: us) (hf : effort s ≤ f + 1) :
    EndsWithin (us.length + f * max 1 c.length + 1) s := by
  obtain ⟨src, snk, ht⟩ := h.currentTurn_seq
  refine h.endsWithin_of_step ht fun t hs hlive hturns hcycle => ?_
  rw [hus] at hturns
  by_cases hnow : currentTurn s = .seq true true
  · have hpass := step_willing h.inv hnow h.running hs
    have hlt := hpass.effort_lt (continues_advance h.inv hnow).inv
    rw [effort_advance] at hlt
    have hend := ih t hlive (hcycle.trans hc) (by omega)
    rwa [hturns] at hend
  · match us, hturns, (List.mem_cons.mp hw).resolve_left (Ne.symm hnow) with
    | v :: vs, hturns, hlater =>
      have hle := (effort_step_le h.inv ht hs).trans hf
      have hend := endsWithin_of_willing ih vs hlive (hcycle.trans hc) (laterTurns_cons hturns)
        ((currentTurn_cons hturns).symm ▸ hlater) hle
      exact hend.mono (by rw [List.length_cons]; omega)

/-- An operation with at most `f` items to come ends once `turns` is used up and `f` rounds have passed. -/
theorem Live.endsWithin {f : Nat} {c : List Turn} {s : State} (h : Live s) (hc : s.cycle = c) (hf : effort s ≤ f) :
    EndsWithin (s.turns.length + f * max 1 c.length) s := by
  induction f generalizing s with
  | zero =>
    rw [effort_running h.running] at hf
    omega
  | succ f ihf =>
    generalize hts : s.turns = ts
    induction ts generalizing s with
    | nil =>
      obtain ⟨hw, hlen⟩ := h.round_begins hts
      have hend := h.endsWithin_of_willing (fun t ht hct hft => ihf ht hct hft) _ hc rfl hw hf
      refine hend.mono ?_
      rw [hc] at hlen
      rw [Nat.add_one_mul, ← hlen, List.length_nil]
      omega
    | cons u us iht =>
      obtain ⟨src, snk, ht⟩ := h.currentTurn_seq
      have hend := h.endsWithin_of_step (n := us.length + (f + 1) * max 1 c.length) ht fun t hs hlive hturns hcycle =>
        iht hlive (hcycle.trans hc) ((effort_step_le h.inv ht hs).trans hf) (hturns.trans (laterTurns_cons hts))
      exact hend.mono (by rw [List.length_cons]; omega)

/-- Settles O60: at most 14 header bytes, the bytes of the input and its end are to come, and each round lets one pass. -/
theorem operationsTerminate : Obligations.OperationsTerminate := by
  intro s hinv hbusy hfair
  obtain ⟨hbusyInv, -⟩ := id hinv
  have hwithdrawn : Inv (withdrawEos s) :=
    inv_of_same_progress hinv rfl rfl rfl rfl rfl (fun _ => rfl) (by simp [EosInv, withdrawEos])
  have hlive : Live s := ⟨hwithdrawn, hbusyInv.mp hbusy, hfair⟩
  obtain ⟨n, t, hn, hrun, hend, hout⟩ := hlive.endsWithin rfl (effort_le s)
  exact ⟨n, t, hn, hrun, hend, hout⟩

end Sys2Proof.Machine
end

section
/-! The host's lines (R180 to R189, R96): the step of a register write, of a read and of a `WAIT`, and what a parameter register
reads after a write to it. -/

namespace Sys2Proof.Machine

/-! ### A line of the host -/

section HostLine

variable {s : State} {ls : List HostLine} (ht : currentTurn s = .host)

include ht

/-- What the line does, it does to the state in which the host has moved on (log 1, log 2). -/
theorem step_line {l : HostLine} (hh : s.host = l :: ls) (hf : fetch s = .line l) :
    step s = hostLine l { s with host := ls, turns := laterTurns s } := by
  simp only [step, hf, advance_hostLine ht hh]

/-- Every line but a write, which may be a command, runs as itself (R93, R96). -/
theorem step_hostLine {l : HostLine} (hh : s.host = l :: ls) (hl : ∀ off v, l ≠ .wr off v) :
    step s = hostLine l { s with host := ls, turns := laterTurns s } := by
  refine step_line ht hh ?_
  cases l with
  | wr off v => exact absurd rfl (hl off v)
  | rd _ | wait | reset | input _ | feedBack => simp only [fetch, ht, hostMove, hh]

variable {off : Nat} {v : Word} (hh : s.host = .wr off v :: ls)

include hh

/-- A write is a command, or else what `regWrite` makes of it (R93, R180). -/
theorem step_write_cases :
    (off = 0x00 ∧ ∃ i, decodeCtrl v = .ok i ∧ step s = exec i { s with host := ls, turns := laterTurns s }) ∨
    step s = .next (regWrite off v { s with host := ls, turns := laterTurns s }) := by
  by_cases h0 : off = 0x00
  · subst h0
    cases hd : decodeCtrl v with
    | ok i => exact .inl ⟨rfl, i, rfl, by rw [step_run (fetch_command ht hh hd), advance_hostLine ht hh]⟩
    | error e => exact .inr (step_parameterUpdate ht hh hd)
  · refine .inr (step_line ht hh ?_)
    simp only [fetch, ht, hostMove, hh, regCtrl, h0, if_false]

/-- A write that starts nothing (R184 to R189). -/
theorem step_write_noStart (hv : off = 0x00 → v.getLsbD 0 = false) :
    step s = .next (regWrite off v { s with host := ls, turns := laterTurns s }) := by
  obtain ⟨h0, i, hd, -⟩ | h := step_write_cases ht hh
  · rw [decodeCtrl_noStart (hv h0)] at hd
    cases hd
  · exact h

end HostLine

/-! ### Register writes -/

theorem regWrite_busy {s : State} (off : Nat) (v : Word) (hb : s.flags.busy = true) : regWrite off v s = s :=
  if_pos hb

section Idle

variable {s : State} (v : Word) (hb : s.flags.busy = false)

include hb

theorem regWrite_ctrl :
    regWrite 0x00 v s = storeMode (v.getLsbD 1) (v.getLsbD 2) (v.getLsbD 3) (v.getLsbD 4) s := by
  rw [regWrite, hb]
  rfl

theorem regWrite_lenLo : regWrite 0x08 v s = { s with len := setLow s.len v } := by
  rw [regWrite, hb]
  rfl

theorem regWrite_lenHi : regWrite 0x0C v s = { s with len := setHigh s.len v } := by
  rw [regWrite, hb]
  rfl

theorem regWrite_key : regWrite 0x10 v s = { s with key := v } := by
  rw [regWrite, hb]
  rfl

end Idle

/-- Offsets that hold no parameter ignore a write (R187, R189). -/
theorem regWrite_elsewhere {off : Nat} (v : Word) (s : State) (h : off ∉ [0x00, 0x08, 0x0C, 0x10]) :
    regWrite off v s = s := by
  simp only [List.mem_cons, List.not_mem_nil, or_false, not_or] at h
  obtain ⟨h0, h8, hC, h10⟩ := h
  simp only [regWrite, regCtrl, regLenLo, regLenHi, regKey, h0, h8, hC, h10, if_false, ite_self]

/-- Settles O16: a command of a busy block is ignored, and so is any other write. -/
theorem writesWhileBusyAreIgnored : Obligations.WritesWhileBusyAreIgnored := by
  intro s off v ls hb ht hh
  have hbusy : ({ s with host := ls, turns := laterTurns s } : State).flags.busy = true := hb
  obtain ⟨-, i, hd, h⟩ | h := step_write_cases ht hh
  · rw [h, exec_command_busy (decodeCtrl_carrier hd) hbusy]
  · rw [h, regWrite_busy off v hbusy]

/-! ### The halves of a length (R22, R185) -/

theorem highHalf_setWidth (d : DWord) : (highHalf d).setWidth 64 = d >>> 32 := by
  apply BitVec.eq_of_toNat_eq
  rw [highHalf_eq, BitVec.toNat_setWidth, BitVec.toNat_setWidth, BitVec.toNat_ushiftRight, Nat.shiftRight_eq_div_pow]
  omega

theorem lowHalf_setWidth (d : DWord) : (lowHalf d).setWidth 64 = d &&& 0xFFFFFFFF#64 := by
  apply BitVec.eq_of_toNat_eq
  rw [lowHalf_eq, BitVec.toNat_setWidth, BitVec.toNat_setWidth, BitVec.toNat_and]
  refine Eq.trans ?_ (Nat.and_two_pow_sub_one_eq_mod d.toNat 32).symm
  omega

/-- Two words put together as the halves of a 64-bit quantity. -/
theorem join_eq_append (hi lo : Word) : (hi.setWidth 64 <<< 32) ||| lo.setWidth 64 = hi ++ lo := by
  rw [BitVec.append_def, BitVec.shiftLeftZeroExtend_eq, BitVec.setWidth'_eq]

theorem halves_setLow (d : DWord) (v : Word) : lowHalf (setLow d v) = v ∧ highHalf (setLow d v) = highHalf d := by
  rw [setLow, join_eq_append]
  exact ⟨BitVec.extractLsb'_append_eq_right, BitVec.extractLsb'_append_eq_left⟩

theorem halves_setHigh (d : DWord) (v : Word) : highHalf (setHigh d v) = v ∧ lowHalf (setHigh d v) = lowHalf d := by
  rw [setHigh, join_eq_append]
  exact ⟨BitVec.extractLsb'_append_eq_left, BitVec.extractLsb'_append_eq_right⟩

/-- Settles O39: such a write is what `regWrite` makes of it at the offset. -/
theorem registerWritesWhileIdle : Obligations.RegisterWritesWhileIdle := by
  intro s off v ls hb ht hh
  have hidle : ({ s with host := ls, turns := laterTurns s } : State).flags.busy = false := hb
  have hstep := step_write_noStart ht hh
  refine ⟨?ctrl, ?lenLo, ?lenHi, ?key, ?elsewhere⟩
  case ctrl =>
    rintro rfl hv
    rw [hstep fun _ => hv, regWrite_ctrl v hidle]
    rfl
  case lenLo =>
    rintro rfl
    rw [hstep (by simp), regWrite_lenLo v hidle, setLow, highHalf_setWidth]
  case lenHi =>
    rintro rfl
    rw [hstep (by simp), regWrite_lenHi v hidle, setHigh, lowHalf_setWidth]
  case key =>
    rintro rfl
    rw [hstep (by simp), regWrite_key v hidle]
  case elsewhere =>
    intro hoff
    rw [hstep (by rintro rfl; exact absurd List.mem_cons_self hoff), regWrite_elsewhere v _ hoff]

/-! ### Reading parameters back -/

theorem bitAt_getLsbD (n : Nat) (v : Word) : bitAt n (v.getLsbD n) = v &&& bitAt n true := by
  apply BitVec.eq_of_getLsbD_eq
  intro i _
  rw [BitVec.getLsbD_and, getLsbD_bitAt, getLsbD_bitAt]
  grind

/-- `CTRL` reads the mode bits a write has stored, `MASK_EN` as 1 unless `P_UNMASKED_ENCODE` (R23). -/
theorem ctrlWord_of_stored {s t : State} {v : Word} (hcfg : t.cfg = s.cfg)
    (hctrl : t.ctrl = (storeMode (v.getLsbD 1) (v.getLsbD 2) (v.getLsbD 3) (v.getLsbD 4) s).ctrl) :
    ctrlWord t = if s.cfg.unmaskedEncode then v &&& 0x1E#32 else (v &&& 0x0E#32) ||| 0x10#32 := by
  have hmask : (0x1E#32 = bitAt 1 true ||| bitAt 2 true ||| bitAt 3 true ||| bitAt 4 true) ∧
      (0x0E#32 = bitAt 1 true ||| bitAt 2 true ||| bitAt 3 true) ∧ 0x10#32 = bitAt 4 true := by decide
  obtain ⟨h1E, h0E, h10⟩ := hmask
  rw [ctrlWord, maskEnabled, hctrl, hcfg, storeMode_ctrl, h1E, h0E, h10]
  cases s.cfg.unmaskedEncode <;>
    simp only [if_true, if_false, Bool.false_eq_true, bitAt_getLsbD, BitVec.and_or_distrib_left]

/-- A write to `CTRL` of an idle block stores its mode bits, whether it is a command or not (R182, R184). -/
theorem step_ctrlWrite_stores {s : State} {v : Word} {ls : List HostLine} (hb : s.flags.busy = false)
    (ht : currentTurn s = .host) (hh : s.host = .wr 0x00 v :: ls) :
    ∃ t, step s = .next t ∧ t.cfg = s.cfg ∧
      t.ctrl = (storeMode (v.getLsbD 1) (v.getLsbD 2) (v.getLsbD 3) (v.getLsbD 4) s).ctrl := by
  have hidle : ({ s with host := ls, turns := laterTurns s } : State).flags.busy = false := hb
  cases h0 : v.getLsbD 0 with
  | false =>
    have hstep := step_write_noStart ht hh fun _ => h0
    rw [regWrite_ctrl v hidle] at hstep
    exact ⟨_, hstep, rfl, rfl⟩
  | true =>
    cases h1 : v.getLsbD 1 with
    | false =>
      have hstep := step_run (fetch_command ht hh (decodeCtrl_mask h0 h1))
      rw [advance_hostLine ht hh, exec_mask_idle _ _ _ hidle] at hstep
      exact ⟨_, hstep, rfl, rfl⟩
    | true =>
      have hstep := step_run (fetch_command ht hh (decodeCtrl_unmask h0 h1))
      rw [advance_hostLine ht hh, exec_unmask_idle _ _ _ hidle] at hstep
      exact ⟨_, hstep, rfl, rfl⟩

/-- Settles O40: a write to `CTRL` stores the bits that `CTRL` reads, and another one a half of `LEN` or `KEY`. -/
theorem parametersReadBack : Obligations.ParametersReadBack := by
  intro s off v ls hb ht hh
  have hidle : ({ s with host := ls, turns := laterTurns s } : State).flags.busy = false := hb
  by_cases h0 : off = 0x00
  · subst h0
    obtain ⟨t, hstep, hcfg, hctrl⟩ := step_ctrlWrite_stores hb ht hh
    exact ⟨t, hstep, by simp, by simp, by simp, fun _ => ctrlWord_of_stored hcfg hctrl⟩
  · refine ⟨_, step_write_noStart ht hh fun h => absurd h h0, ?lenLo, ?lenHi, ?key, fun h => absurd h h0⟩
    case lenLo =>
      rintro rfl
      rw [regWrite_lenLo v hidle]
      exact halves_setLow s.len v
    case lenHi =>
      rintro rfl
      rw [regWrite_lenHi v hidle]
      exact halves_setHigh s.len v
    case key =>
      rintro rfl
      rw [regWrite_key v hidle]
      rfl

/-! ### Register reads and `WAIT` -/

/-- The registers show nothing of the host's program or the schedule. -/
theorem regRead_moved (off : Nat) (s : State) (ls : List HostLine) (ts : List Turn) :
    regRead off { s with host := ls, turns := ts } = regRead off s :=
  rfl

/-- `WAIT` is a read of `STATUS` that comes again while `BUSY` reads 1 (R96). -/
theorem hostWait_eq (s : State) :
    hostWait s = { hostRead 0x04 s with host := if s.flags.busy then .wait :: s.host else s.host } := by
  obtain ⟨hbit, -⟩ := statusWord_bits s
  rw [hostWait, hbit]
  cases s.flags.busy <;> rfl

/-- Settles O42: both lines are a `hostRead`, which only keeps the value. -/
theorem registerReadHasNoSideEffectAndWaitPollsBusy : Obligations.RegisterReadHasNoSideEffectAndWaitPollsBusy := by
  intro s ls ht
  refine ⟨fun off hh => ?read, fun hh => ?wait⟩
  case read =>
    rw [step_hostLine ht hh (by simp), hostLine, hostRead, regRead_moved]
  case wait =>
    rw [step_hostLine ht hh (by simp), hostLine, hostWait_eq, hostRead, regRead_moved]

end Sys2Proof.Machine
end

section
/-! The exceptions of the block (R195 to R205): what each fatal one leaves, that a step raises at most one, and that no step
stops but one that replaces the stream of a running operation (R195, U13). -/

namespace Sys2Proof.Machine

/-! ### End of input -/

/-- Settles O23: the operation of a header phase raises the fatal event when it has no byte. -/
theorem endOfInputInHeaderIsTruncatedHeader : Obligations.EndOfInputInHeaderIsTruncatedHeader :=
  fun s hp hi => (exec_decode_eos hp hi).trans (congrArg _ (raise_fatal rfl s))

/-- Settles O24: the operation of the payload raises the fatal event when it has no byte. -/
theorem endOfInputInPayloadIsUnexpectedEnd : Obligations.EndOfInputInPayloadIsUnexpectedEnd :=
  fun s hp hi => (exec_apply_eos hp hi).trans (congrArg _ (raise_fatal rfl s))

/-! ### At most one event in a step -/

/-- From flags `f` to flags `g` no event flag but that of `e` is newly set. -/
def RaisesOnly (e : ErrKind) (f g : Flags) : Prop := ∀ k, flagOf k g = true → flagOf k f = true ∨ k = e

/-- From flags `f` to flags `g` at most one event flag is newly set (R205). -/
def AtMostOneEvent (f g : Flags) : Prop := ∃ e, RaisesOnly e f g

theorem RaisesOnly.of_same {e : ErrKind} {f g : Flags} (h : ∀ k, flagOf k g = flagOf k f) : RaisesOnly e f g :=
  fun k hk => .inl (h k ▸ hk)

/-- Where no flag is newly set, any event will do. -/
theorem AtMostOneEvent.of_same {f g : Flags} (h : ∀ k, flagOf k g = flagOf k f) : AtMostOneEvent f g :=
  ⟨.truncatedHeader, .of_same h⟩

theorem AtMostOneEvent.of_none {f g : Flags} (h : ∀ k, flagOf k g = false) : AtMostOneEvent f g :=
  ⟨.truncatedHeader, fun k hk => absurd hk (by simp [h k])⟩

theorem flagOf_raise (k e : ErrKind) (s : State) :
    flagOf k (raise e s).flags = (decide (k = e) || flagOf k s.flags) := by
  rw [raise_flags, ← flagOf_setFlag]
  exact flagOf_busy_done k (setFlag e s.flags) _ _

theorem flagOf_finish (k : ErrKind) (s : State) : flagOf k (finish s).flags = flagOf k s.flags :=
  flagOf_busy_done k s.flags _ _

theorem flagOf_payStart (k : ErrKind) (s : State) : flagOf k (payStart s).flags = flagOf k s.flags := by
  obtain ⟨-, e⟩ | ⟨-, e⟩ := payStart_cases s <;> rw [e]
  exact flagOf_finish k _

theorem flagOf_encAdvance (k : ErrKind) (s : State) : flagOf k (encAdvance s).flags = flagOf k s.flags := by
  obtain ⟨-, e⟩ | ⟨-, e⟩ := encAdvance_cases s <;> rw [e]
  exact flagOf_payStart k s

theorem flagOf_payAdvance (k : ErrKind) (s : State) : flagOf k (payAdvance s).flags = flagOf k s.flags := by
  obtain ⟨-, e⟩ | ⟨-, e⟩ := payAdvance_cases s <;> rw [e]
  exact flagOf_finish k _

theorem flagOf_receiveKey {b : Byte} {s t : State} (k : ErrKind) (h : receiveKey b s = .next t) :
    flagOf k t.flags = flagOf k s.flags := by
  obtain ⟨-, rfl⟩ | ⟨-, rfl⟩ := receiveKey_cases h
  · rfl
  · exact flagOf_payStart k _

theorem raise_raisesOnly (e : ErrKind) (s : State) : RaisesOnly e s.flags (raise e s).flags := by
  intro k hk
  rw [flagOf_raise, Bool.or_eq_true, decide_eq_true_iff] at hk
  exact hk.symm

/-- The step that completes the length raises the diagnostic of an unmasked frame or nothing (R161). -/
theorem keyStep_raisesOnly (s : State) : RaisesOnly .unmaskedFrameEncountered s.flags (keyStep s).flags := by
  obtain ⟨-, e⟩ | ⟨-, e⟩ := keyStep_cases s <;> rw [e]
  · exact .of_same fun _ => rfl
  · intro k hk
    rw [flagOf_payStart] at hk
    exact raise_raisesOnly _ s k hk

theorem receiveB0_raisesOnly (b : Byte) (s : State) :
    RaisesOnly .malformedOpcodeOrFlags s.flags (receiveB0 b s).flags := by
  unfold receiveB0
  split
  · exact .of_same fun _ => rfl
  · exact raise_raisesOnly _ { s with hdr := { s.hdr with b0 := b }, phase := .decB1 }

theorem receiveB1_raisesOnly (b : Byte) (s : State) :
    RaisesOnly .unmaskedFrameEncountered s.flags (receiveB1 b s).flags := by
  obtain ⟨-, e⟩ | ⟨-, e⟩ := receiveB1_cases b s <;> rw [e]
  · exact keyStep_raisesOnly { s with hdr := { s.hdr with b1 := b, len := (len7 b).setWidth 64 } }
  · exact .of_same fun _ => rfl

theorem receiveExt_raisesOnly (b : Byte) (s : State) :
    RaisesOnly .unmaskedFrameEncountered s.flags (receiveExt b s).flags := by
  obtain ⟨-, e⟩ | ⟨-, e⟩ := receiveExt_cases b s <;> rw [e]
  · exact .of_same fun _ => rfl
  · exact keyStep_raisesOnly { s with hdr := { s.hdr with len := accumulate s.hdr.len b }, cnt := 0 }

/-- Each effect of the sequencer's instructions has one event of its own, or none. -/
theorem SeqEffect.atMostOneEvent {s t : State} (h : SeqEffect s t) : AtMostOneEvent s.flags t.flags := by
  cases h with
  | stay => exact .of_same fun _ => rfl
  | emit b _ => exact .of_same fun k => flagOf_encAdvance k (outWrite b s)
  | truncated _ _ | endOfStream _ _ => exact ⟨_, raise_raisesOnly _ s⟩
  | firstByte _ b rest _ _ => exact ⟨_, receiveB0_raisesOnly b { s with inp := rest }⟩
  | secondByte _ b rest _ _ => exact ⟨_, receiveB1_raisesOnly b { s with inp := rest }⟩
  | lengthByte b rest _ _ => exact ⟨_, receiveExt_raisesOnly b { s with inp := rest }⟩
  | keyByte b rest t _ _ hk => exact .of_same fun k => flagOf_receiveKey (s := { s with inp := rest }) k hk
  | payloadByte b rest _ _ => exact .of_same fun k => flagOf_payAdvance k _

/-- A command is ignored, or it clears every event flag (R182, R183). -/
theorem exec_command_atMostOneEvent {i : Instr} {s t : State} (hc : i.row.carrier = .ctrl) (h : exec i s = .next t) :
    AtMostOneEvent s.flags t.flags := by
  cases hb : s.flags.busy with
  | true =>
    rw [exec_command_busy hc hb] at h
    injection h with h
    exact h ▸ .of_same fun _ => rfl
  | false =>
    obtain ⟨o, k, m, rfl | rfl⟩ := command_cases hc
    · rw [exec_mask_idle o k m hb] at h
      injection h with h
      exact h ▸ .of_none fun e => by cases e <;> rfl
    · rw [exec_unmask_idle o k m hb] at h
      injection h with h
      exact h ▸ .of_none fun e => by cases e <;> rfl

theorem regWrite_flags (off : Nat) (v : Word) (s : State) : (regWrite off v s).flags = s.flags := by
  unfold regWrite
  split_ifs <;> rfl

theorem hostInput_flags {bytes : List Byte} {s t : State} (h : hostInput bytes s = .next t) : t.flags = s.flags := by
  obtain ⟨-, e⟩ | ⟨-, e⟩ := hostInput_cases bytes s <;> rw [e] at h
  · cases h
  · injection h with h
    exact h ▸ rfl

/-- Of the host's lines only a reset touches a flag, and it clears them all (R36, R220). -/
theorem hostLine_flags {l : HostLine} {s t : State} (h : hostLine l s = .next t) :
    t.flags = s.flags ∨ t.flags = Flags.zero := by
  cases l with
  | wr off v => injection h with h; exact .inl (h ▸ regWrite_flags off v s)
  | rd off => injection h with h; exact .inl (h ▸ rfl)
  | wait => injection h with h; exact .inl (by rw [← h, hostWait_eq]; rfl)
  | reset => injection h with h; exact .inr (h ▸ rfl)
  | input bytes => exact .inl (hostInput_flags h)
  | feedBack => exact .inl (hostInput_flags (s := { s with out := [] }) h)

theorem step_atMostOneEvent {s t : State} (h : step s = .next t) : AtMostOneEvent s.flags t.flags := by
  rw [← advance_flags s]
  obtain ⟨_, _, -, -, he⟩ | rfl | ⟨v, i, -, hd, he⟩ | ⟨_, _, -, -, -, hl⟩ := step_cases h
  · exact (exec_seqEffect (phaseOp_sequencer s.phase) he).atMostOneEvent
  · exact .of_same fun _ => rfl
  · exact exec_command_atMostOneEvent (decodeCtrl_carrier hd) he
  · obtain hf | hf := hostLine_flags hl <;> rw [hf]
    · exact .of_same fun _ => rfl
    · exact .of_none fun e => by cases e <;> rfl

/-- Settles O35: two flags a step newly sets are both that of its one event. -/
theorem atMostOneEventPerStep : Obligations.AtMostOneEventPerStep := by
  intro s t e f h he he' hf hf'
  obtain ⟨k, hk⟩ := step_atMostOneEvent h
  have newly (j : ErrKind) (hj : flagOf j s.flags = false) (hj' : flagOf j t.flags = true) : j = k :=
    (hk j hj').resolve_left (by simp [hj])
  exact (newly e he he').trans (newly f hf hf').symm

/-! ### Steps that stop -/

theorem hostInput_idle (bytes : List Byte) {s : State} (hb : s.flags.busy = false) :
    hostInput bytes s = .next { s with inp := bytes, inEos := false } :=
  if_neg (Bool.eq_false_iff.mp hb)

theorem hostInput_busy (bytes : List Byte) {s : State} (hb : s.flags.busy = true) :
    hostInput bytes s = .refused .inputReplacedWhileBusy :=
  if_pos hb

/-- A line of the host answers a next state, unless it connects a stream to a busy block (R66, U13; log 15, log 26). -/
theorem hostLine_next_or_refused (l : HostLine) (s : State) :
    (∃ t, hostLine l s = .next t) ∨
    (s.flags.busy = true ∧ ((∃ bytes, l = .input bytes) ∨ l = .feedBack) ∧
      hostLine l s = .refused .inputReplacedWhileBusy) := by
  cases l with
  | wr _ _ | rd _ | wait | reset => exact .inl ⟨_, rfl⟩
  | input bytes =>
    obtain ⟨hb, e⟩ | ⟨-, e⟩ := hostInput_cases bytes s
    · exact .inr ⟨hb, .inl ⟨bytes, rfl⟩, e⟩
    · exact .inl ⟨_, e⟩
  | feedBack =>
    obtain ⟨hb, e⟩ | ⟨-, e⟩ := hostFeedBack_cases s
    · exact .inr ⟨hb, .inr rfl, e⟩
    · exact .inl ⟨_, e⟩

theorem inv_withdrawEos {s : State} (h : Inv s) : Inv (withdrawEos s) :=
  inv_of_same_progress h rfl rfl rfl rfl rfl (fun _ => rfl) (by simp [EosInv, withdrawEos])

/-- The sequencer always has an item to pass or waits; the host's commands are always answered, and its lines but for
streams connected to a busy block. -/
theorem step_next_or_refused {s : State} (hinv : Inv s) :
    (∃ t, step s = .next t) ∨
    (s.flags.busy = true ∧ ((∃ bytes, fetch s = .line (.input bytes)) ∨ fetch s = .line .feedBack) ∧
      step s = .refused .inputReplacedWhileBusy) := by
  cases ht : currentTurn s with
  | seq src snk =>
    obtain ⟨t, hs, -⟩ := step_seq_continues (inv_withdrawEos hinv) ht
    exact .inl ⟨t, hs⟩
  | host =>
    have hf : fetch s = hostMove s := by simp only [fetch, ht]
    obtain hm | ⟨i, hm, hc⟩ | ⟨l, -, hm⟩ := hostMove_cases s <;> rw [hm] at hf
    · exact .inl ⟨advance s, by simp only [step, hf]⟩
    · rw [step_run hf]
      exact .inl (exec_command_next hc _)
    · have hs : step s = hostLine l (advance s) := by simp only [step, hf]
      obtain ⟨t, hl⟩ | ⟨hb, hl, hr⟩ := hostLine_next_or_refused l (advance s)
      · exact .inl ⟨t, hs.trans hl⟩
      · rw [advance_flags] at hb
        refine .inr ⟨hb, ?_, hs.trans hr⟩
        obtain ⟨bytes, rfl⟩ | rfl := hl
        · exact .inl ⟨bytes, hf⟩
        · exact .inr hf

/-- Settles O54: under the invariant only a stream connected to a busy block stops, and the two lines that connect one are
`hostInput` and `hostFeedBack` of the state in which the host has moved on. -/
theorem stepsDoNotStop : Obligations.StepsDoNotStop := by
  refine ⟨fun s => step_next_or_refused, fun s ls ht => ⟨fun bytes hh => ?input, fun hh => ?feedBack⟩⟩
  case input =>
    rw [step_hostLine ht hh (by simp), hostLine]
    exact ⟨fun hb => hostInput_idle bytes hb, fun hb => hostInput_busy bytes hb⟩
  case feedBack =>
    rw [step_hostLine ht hh (by simp), hostLine, hostFeedBack]
    exact ⟨fun hb => hostInput_idle s.out hb, fun hb => hostInput_busy s.out hb⟩

end Sys2Proof.Machine
end

section
/-! The marker test shows in its diagnostic only (R125, R198, R201): every operation of the sequencer commutes with another
`P_EXPECTED_B0` and another `D_MALFORMED`, but for what the flag is after a first byte. -/

namespace Sys2Proof.Machine

/-- `s` with another `P_EXPECTED_B0` and another `D_MALFORMED`. -/
def withMarker (e : List Byte) (d : Bool) (s : State) : State :=
  { s with cfg := { s.cfg with expectedB0 := e }, flags := { s.flags with dMalformed := d } }

/-- Where `f` answers a next state for `s`, it answers the same for `s` with the marker set `e` and the flag `d`, but for
the flag itself (R201). -/
def IgnoresMarker (e : List Byte) (d : Bool) (f : State → Result) (s : State) : Prop :=
  ∀ t, f s = .next t → ∃ d', f (withMarker e d s) = .next (withMarker e d' t)

section Marker

variable {e : List Byte} {d : Bool}

/-- Only the marker test raises its own diagnostic. -/
theorem raise_withMarker {k : ErrKind} (hk : k ≠ .malformedOpcodeOrFlags) (s : State) :
    raise k (withMarker e d s) = withMarker e d (raise k s) := by
  cases k with
  | malformedOpcodeOrFlags => exact absurd rfl hk
  | truncatedHeader | unexpectedEndOfStream | unmaskedFrameEncountered => rfl

theorem payStart_withMarker (s : State) : payStart (withMarker e d s) = withMarker e d (payStart s) := by
  rw [payStart, payStart, apply_ite (withMarker e d)]
  rfl

theorem keyStep_withMarker (s : State) : keyStep (withMarker e d s) = withMarker e d (keyStep s) := by
  rw [keyStep, keyStep, apply_ite (withMarker e d), ← payStart_withMarker, ← raise_withMarker (by decide)]
  rfl

theorem emitHeaderByte_withMarker (b : Byte) (s : State) :
    emitHeaderByte b (withMarker e d s) = withMarker e d (emitHeaderByte b s) := by
  rw [emitHeaderByte, emitHeaderByte, encAdvance, encAdvance, apply_ite (withMarker e d), ← payStart_withMarker]
  rfl

theorem payAdvance_withMarker (s : State) : payAdvance (withMarker e d s) = withMarker e d (payAdvance s) := by
  rw [payAdvance, payAdvance, apply_ite (withMarker e d)]
  rfl

/-- The one place where the marker test is made: it shows in its flag (R125, R198). -/
theorem receiveB0_withMarker (b : Byte) (s : State) :
    receiveB0 b (withMarker e d s) = withMarker e (d || !e.contains b) (receiveB0 b s) := by
  rw [receiveB0_eq, receiveB0_eq]
  rfl

theorem receiveB1_withMarker (b : Byte) (s : State) :
    receiveB1 b (withMarker e d s) = withMarker e d (receiveB1 b s) := by
  rw [receiveB1, receiveB1, apply_ite (withMarker e d), ← keyStep_withMarker]
  rfl

theorem receiveExt_withMarker (b : Byte) (s : State) :
    receiveExt b (withMarker e d s) = withMarker e d (receiveExt b s) := by
  rw [receiveExt, receiveExt, apply_ite (withMarker e d), ← keyStep_withMarker]
  rfl

variable {s : State}

theorem IgnoresMarker.next {g : State → State} (d' : Bool) (h : g (withMarker e d s) = withMarker e d' (g s)) :
    IgnoresMarker e d (fun s => .next (g s)) s := by
  intro t ht
  injection ht with ht
  exact ht ▸ ⟨d', congrArg _ h⟩

theorem IgnoresMarker.stay : IgnoresMarker e d .next s := .next (g := id) d rfl

theorem IgnoresMarker.readOr (k : ErrKind) {f : Byte → State → Result} (hk : k ≠ .malformedOpcodeOrFlags)
    (hf : ∀ b s1, IgnoresMarker e d (f b) s1) : IgnoresMarker e d (readOr k f) s := by
  intro t h
  obtain ⟨hi, rfl⟩ | ⟨b, rest, hi, hb⟩ := readOr_cases h
  · exact ⟨d, by rw [readOr_eos (s := withMarker e d s) hi, raise_withMarker hk]⟩
  · rw [readOr_byte (s := withMarker e d s) hi]
    exact hf b _ t hb

theorem receiveKey_ignoresMarker (b : Byte) (s : State) : IgnoresMarker e d (receiveKey b) s := by
  intro t h
  obtain ⟨hc, rfl⟩ | ⟨hc, rfl⟩ := receiveKey_cases h
  · exact ⟨d, if_pos hc⟩
  · refine ⟨d, ?_⟩
    rw [← payStart_withMarker]
    exact (if_neg (Nat.not_lt.mpr hc.ge)).trans (if_pos hc)

theorem receiveB0_ignoresMarker (b : Byte) (s : State) : IgnoresMarker e d (fun s => .next (receiveB0 b s)) s :=
  .next _ (receiveB0_withMarker b s)

theorem receiveB1_ignoresMarker (b : Byte) (s : State) : IgnoresMarker e d (fun s => .next (receiveB1 b s)) s :=
  .next d (receiveB1_withMarker b s)

theorem emitHeaderByte_ignoresMarker (b : Byte) (s : State) :
    IgnoresMarker e d (fun s => .next (emitHeaderByte b s)) s :=
  .next d (emitHeaderByte_withMarker b s)

theorem payloadByte_ignoresMarker (b : Byte) (s : State) :
    IgnoresMarker e d (fun s => .next (payAdvance (outWrite (applyByte b s.pos s.hdr.key) s))) s :=
  .next (g := fun s => payAdvance (outWrite (applyByte b s.pos s.hdr.key) s)) d
    (payAdvance_withMarker (outWrite (applyByte b s.pos s.hdr.key) s))

/-- What an operation `f` is at the phase, the count and the header record of `s`, it is with another marker too. -/
theorem IgnoresMarker.of_eq {f g : State → Result}
    (hf : ∀ u : State, u.phase = s.phase → u.cnt = s.cnt → u.hdr = s.hdr → f u = g u)
    (hg : IgnoresMarker e d g s) : IgnoresMarker e d f s := by
  intro t h
  rw [hf s rfl rfl rfl] at h
  rw [hf (withMarker e d s) rfl rfl rfl]
  exact hg t h

theorem execEncode_ignoresMarker (s : State) : IgnoresMarker e d execEncode s := by
  by_cases hs : s.phase = .encHdr
  · cases hb : hdrByte s.hdr s.cnt.toNat with
    | some b =>
      exact .of_eq (fun u hp hc hh => exec_encode_byte (hp.trans hs) (by rw [hh, hc, hb]))
        (emitHeaderByte_ignoresMarker b s)
    | none =>
      intro t h
      simp only [execEncode, hs, hb] at h
      cases h
  · exact .of_eq (fun u hp _ _ => exec_encode_elsewhere (hp ▸ hs)) .stay

theorem execDecode_ignoresMarker (s : State) : IgnoresMarker e d execDecode s := by
  cases hs : s.phase with
  | idle | encHdr | payload =>
    exact .of_eq (fun u hp _ _ => exec_decode_elsewhere (by simp [hp, hs, headerPhase])) .stay
  | decB0 =>
    exact .of_eq (fun u hp _ _ => by simp only [execDecode, hp, hs])
      (.readOr .truncatedHeader (by decide) receiveB0_ignoresMarker)
  | decB1 =>
    exact .of_eq (fun u hp _ _ => by simp only [execDecode, hp, hs])
      (.readOr .truncatedHeader (by decide) receiveB1_ignoresMarker)
  | decExt =>
    exact .of_eq (fun u hp _ _ => by simp only [execDecode, hp, hs])
      (.readOr .truncatedHeader (by decide) fun b s1 => .next d (receiveExt_withMarker b s1))
  | decKey =>
    exact .of_eq (fun u hp _ _ => by simp only [execDecode, hp, hs])
      (.readOr .truncatedHeader (by decide) receiveKey_ignoresMarker)

theorem execApply_ignoresMarker (s : State) : IgnoresMarker e d execApply s := by
  by_cases hs : s.phase = .payload
  · exact .of_eq (fun u hp _ _ => by simp only [execApply, hp, hs])
      (.readOr .unexpectedEndOfStream (by decide) payloadByte_ignoresMarker)
  · exact .of_eq (fun u hp _ _ => exec_apply_elsewhere (hp ▸ hs)) .stay

/-- The emitting half of `passB0` and `passB1`. -/
theorem emitAt_ignoresMarker (b : Byte) (c : BitVec 4) (s : State) :
    IgnoresMarker e d (fun s => if s.cnt = c then .next (emitHeaderByte b s) else .next s) s := by
  by_cases hs : s.cnt = c
  · exact .of_eq (fun u _ hc _ => if_pos (hc.trans hs)) (emitHeaderByte_ignoresMarker b s)
  · exact .of_eq (fun u _ hc _ => if_neg (hc ▸ hs)) .stay

theorem passB0_ignoresMarker (b : Byte) (s : State) : IgnoresMarker e d (passB0 b) s := by
  cases hs : s.phase with
  | decB0 =>
    exact .of_eq (fun u hp _ _ => by simp only [passB0, hp, hs])
      (.readOr .truncatedHeader (by decide) fun _ => receiveB0_ignoresMarker b)
  | encHdr => exact .of_eq (fun u hp _ _ => by simp only [passB0, hp, hs]) (emitAt_ignoresMarker b 0 s)
  | idle | decB1 | decExt | decKey | payload =>
    exact .of_eq (fun u hp _ _ => passB0_elsewhere b (by simp [hp, hs])) .stay

theorem passB1_ignoresMarker (b : Byte) (s : State) : IgnoresMarker e d (passB1 b) s := by
  cases hs : s.phase with
  | decB1 =>
    exact .of_eq (fun u hp _ _ => by simp only [passB1, hp, hs])
      (.readOr .truncatedHeader (by decide) fun _ => receiveB1_ignoresMarker b)
  | encHdr => exact .of_eq (fun u hp _ _ => by simp only [passB1, hp, hs]) (emitAt_ignoresMarker b 1 s)
  | idle | decB0 | decExt | decKey | payload =>
    exact .of_eq (fun u hp _ _ => passB1_elsewhere b (by simp [hp, hs])) .stay

theorem exec_ignoresMarker {i : Instr} (hc : i.row.carrier ≠ .ctrl) (s : State) : IgnoresMarker e d (exec i) s := by
  cases i with
  | mask _ _ _ | unmask _ _ _ => exact absurd rfl hc
  | encode => exact execEncode_ignoresMarker s
  | decode => exact execDecode_ignoresMarker s
  | apply => exact execApply_ignoresMarker s
  | hdr7m _ _ | hdr7u _ _ | hdr16m _ | hdr16u _ | hdr64m _ | hdr64u _ => exact passB1_ignoresMarker _ s
  | text _ | binary _ => exact passB0_ignoresMarker _ s

end Marker

/-- Settles O51: the operations commute with another marker set and flag, and no instruction changes the parameters. -/
theorem markerDiagnosticChangesNothingElse : Obligations.MarkerDiagnosticChangesNothingElse := by
  intro i s t e d hc h
  obtain ⟨d', hd'⟩ := exec_ignoresMarker (e := e) (d := d) hc s t h
  obtain ⟨-, -, -, -, -, -, -, -, hcfg⟩ := (exec_seqEffect hc h).sameParameters
  rw [withMarker, withMarker, hcfg] at hd'
  exact ⟨d', hd'⟩

end Sys2Proof.Machine
end

section
/-! The reset line of the host's program (R220, R221): a step that resets the block, from whatever it was doing. -/

namespace Sys2Proof.Machine

variable {s : State} {ls : List HostLine}

/-- The line resets the block of the state in which the host has moved on, `BUSY` or not (R220). -/
theorem step_reset (ht : currentTurn s = .host) (hh : s.host = .reset :: ls) :
    step s = .next (blockReset { s with host := ls, turns := laterTurns s }) := by
  rw [step_hostLine ht hh (by simp), hostLine]

/-- Settles O43: the step is `blockReset`, which by `resetValues` gives the block the values of R36 and keeps the rest. -/
theorem resetSetsTheBlockAndKeepsTheStreams : Obligations.ResetSetsTheBlockAndKeepsTheStreams := by
  intro s ls ht hh
  obtain ⟨hctrl, hlen, hkey, hflags, hphase, hcnt, hpos, hhdr, -, -, hblock⟩ := resetValues
  simp only [step_reset ht hh, hblock, hctrl, hlen, hkey, hflags, hphase, hcnt, hpos, hhdr]

end Sys2Proof.Machine
end
